-- ==== Sys2Proof/Word.lean ====
section
/-! DEFINITION. The bit-vector types of the Sea16 CORE (spec/00_scope.md R8, spec/10_state.md R20 and R28):
every register and every address is a `Word`, every memory cell a `Byte`, an inline operand a `Nibble`. -/

namespace Sys2Proof

/-- A 4-bit field of an opcode or operand byte (R64, R66, R67). -/
abbrev Nibble := BitVec 4

/-- A memory cell: an unsigned 8-bit value (R28). -/
abbrev Byte := BitVec 8

/-- A register or an address: an unsigned 16-bit value, arithmetic on it wraps modulo 2^16 (R8, R9). -/
abbrev Word := BitVec 16

end Sys2Proof
end

