-- ==== Sys2Proof/Machine/Bits.lean ====
section
/-! DEFINITION. Bit fields, byte order, extension and the integer readings of a word (spec/00_scope.md R8, R9, R11;
spec/20_memory.md R41 to R43). -/

namespace Sys2Proof.Machine

/-- `v[7:0]` of a word (R8). -/
def lowByte (v : Word) : Byte := v.extractLsb' 0 8

/-- `v[15:8]` of a word (R8). -/
def highByte (v : Word) : Byte := v.extractLsb' 8 8

/-- `{hi, lo}`: the word whose low byte is `lo`; the low byte stands first in memory and in the instruction stream
(R41, R43, R61). -/
def joinBytes (lo hi : Byte) : Word := hi ++ lo

/-- `v[3:0]` of a byte (R64, R66, R67). -/
def lowNibble (v : Byte) : Nibble := v.extractLsb' 0 4

/-- `v[7:4]` of a byte (R64, R66). -/
def highNibble (v : Byte) : Nibble := v.extractLsb' 4 4

/-- `sext_16(v)`: bit 7 copied into bits 15..8 (R9). -/
def sext16 (v : Byte) : Word := v.signExtend 16

/-- `zext_16(v)` of a byte (R9). -/
def zext16 (v : Byte) : Word := v.zeroExtend 16

/-- `zext_16(n)` of a 4-bit immediate (R68). -/
def zextNibble (n : Nibble) : Word := n.zeroExtend 16

/-- `s16(v)`: the two's-complement reading of a word (R9). -/
def s16 (v : Word) : Int := v.toInt

/-- `trunc16(n) = n mod 2^16` of an exact integer result (R9). -/
def trunc16 (n : Int) : Word := BitVec.ofInt 16 n

end Sys2Proof.Machine
end

