-- ==== Sys2Proof/Config.lean ====
section
/-! DEFINITION. What an implementation fixes: the named parameters of spec/00_scope.md R7 that one machine binds
once, as plain data (`Params`), and the FREE VALUES, which have no body, so that nothing can be proved of their value.

OPMAP is the type `OpMap` here, its default binding the table of Machine/Opmap.lean. The parameter INIT_MEM is not here:
it is an argument of the host's reset in Machine/Ops.lean, 0x00 for a cell no list entry names (assumption log 2). -/

namespace Sys2Proof.Config

/-- `DIV0_POLICY` (R7, R196, decision D7). -/
inductive Div0Policy where
  /-- A divide or modulo by zero raises DivideByZero and the engine stops (R313). The spec's default binding. -/
  | fault
  /-- A divide or modulo by zero writes a total function of the dividend into A: `value(qz, rz)`. -/
  | value
deriving DecidableEq, Repr

/-- `SWITCHRANGE_VARIANT` (R7, decision D15). -/
inductive SwitchRangeVariant where
  /-- The default target is always overwritten by the table read (R237). The spec's default binding. -/
  | literal
  /-- An out-of-range selector goes to the default (R238). -/
  | intended
deriving DecidableEq, Repr

/-- `REL8_TARGET` (R7, R230, decision D5). -/
inductive Rel8Binding where
  /-- `opaddr + 1 - sext_16(d)`: the spec's default binding. -/
  | backward
  /-- Any other function that maps displacement 0x01 to the jump's own address. -/
  | other
deriving DecidableEq, Repr

/-- What an opcode byte of 0x80 to 0xFF selects (R63): one of the 83 tier-2 instructions (R73), a reserved no-op, or
nothing. -/
inductive OpKind where
  | ldaNear | ldaFar | ldaAbs | ldbNear | ldbFar | ldbAbs | staNear | staFar | staAbs | ldabNear | ldabFar
  | ldabAbs | stabNear | stabFar | stabAbs | ldaS8 | ldaU8 | ldaI16 | ldbS8 | ldbU8 | ldbI16 | deref | derefb
  | popstore | popstoreb | pusha | pushb | popa | popb | getsp | setsp | add | sub | rsub | mul | divu | divs
  | modu | mods | neg | not | and | or | xor | shl | shr | asr | eq | ne | ult | ule | ugt | uge | slt | sle
  | sgt | sge | sxa | zxa | sxb | zxb | sloadbf | uloadbf | storebf | dcount | bcopy | bfill | bcmp | allocz
  | portIn | portOut | call | callalloc | calla | ret | switchrange | switchlist | jmpAbs | jzAbs | jnzAbs
  | jmpRel8 | jzRel8 | jnzRel8
  | reservedNop
  | illegal
deriving DecidableEq, Repr

/-- `OPMAP` (R7, R63, decision D1): what each of the bytes 0x80 to 0xFF selects, in order. -/
abbrev OpMap := List OpKind

/-- The bindings of R7's named parameters that one machine fixes; no instruction reads or writes them as data. -/
structure Params where
  opmap       : OpMap
  div0        : Div0Policy
  switchRange : SwitchRangeVariant
  rel8        : Rel8Binding
deriving DecidableEq, Repr

/-- FREE VALUE (assumption log 3): the 16-bit answer of the host to the `k`-th `IN` after the end of its input, which
"may be any 16-bit value" (R260, decision D16). -/
opaque endOfInput : Nat → Word

/-- FREE VALUE (assumption log 4): `qz`, the quotient of a dividend by zero under `DIV0_POLICY = value` (R196). -/
opaque zeroQuotient : Word → Word

/-- FREE VALUE (assumption log 4): `rz`, the remainder of a dividend by zero under `DIV0_POLICY = value` (R196). -/
opaque zeroRemainder : Word → Word

/-- FREE VALUE (assumption log 5): the target of a relative jump at an address, for a displacement other than 0x01,
under a binding of `REL8_TARGET` that is not the default (R230). -/
opaque otherRel8 : Word → Byte → Word

end Sys2Proof.Config
end

