-- ==== Sys2Proof/Machine/Opmap.lean ====
section
/-! DEFINITION. `OPMAP`, the byte value of every tier-2 opcode, as an argument (spec/00_scope.md R7, decision D1): its two
readings, what every binding must satisfy, and the default binding of spec/30_encoding.md R70 and R72. -/

namespace Sys2Proof.Machine

open Config

/-- `OPMAP(op)` for an opcode byte of 0x80 to 0xFF (R63): entry `op[6:0]`; a byte the map does not reach is illegal. -/
def kindAt (m : OpMap) (op : Byte) : OpKind := m.getD (op.extractLsb' 0 7).toNat .illegal

/-- The opcode byte of an instruction under a binding (R7): the first byte that selects it. -/
def codeOf (m : OpMap) (k : OpKind) : Byte := BitVec.ofNat 8 (0x80 + m.idxOf k)

/-- An admissible binding of `OPMAP`: it says what every byte selects, each instruction has its one byte value (R7) and
0xD9 the one the source fixes, and two codes are reserved (R69). -/
def opmapWf (m : OpMap) : Prop :=
  m.length = 128 ∧ (∀ k, k ≠ .reservedNop → k ≠ .illegal → m.count k = 1) ∧ m.count .reservedNop = 2 ∧
    kindAt m 0xD9 = .jmpRel8

/-- What 0x80 to 0x8F select (R72). -/
def opmapRow8 : OpMap :=
  [.ldaNear, .ldaFar, .ldaAbs, .ldbNear, .ldbFar, .ldbAbs, .staNear, .staFar, .staAbs, .ldabNear, .ldabFar,
   .ldabAbs, .stabNear, .stabFar, .stabAbs, .reservedNop]

/-- What 0x90 to 0x9F select (R72). -/
def opmapRow9 : OpMap :=
  [.ldaS8, .ldaU8, .ldaI16, .ldbS8, .ldbU8, .ldbI16, .deref, .derefb, .popstore, .popstoreb, .pusha, .pushb,
   .popa, .popb, .getsp, .setsp]

/-- What 0xA0 to 0xAF select (R72). -/
def opmapRowA : OpMap :=
  [.add, .sub, .rsub, .mul, .divu, .divs, .modu, .mods, .neg, .not, .and, .or, .xor, .shl, .shr, .asr]

/-- What 0xB0 to 0xBF select (R72). -/
def opmapRowB : OpMap :=
  [.eq, .ne, .ult, .ule, .ugt, .uge, .slt, .sle, .sgt, .sge, .sxa, .zxa, .sxb, .zxb, .illegal, .illegal]

/-- What 0xC0 to 0xCF select (R72). -/
def opmapRowC : OpMap :=
  [.sloadbf, .uloadbf, .storebf, .dcount, .bcopy, .bfill, .bcmp, .allocz, .portIn, .portOut, .illegal,
   .illegal, .illegal, .illegal, .illegal, .illegal]

/-- What 0xD0 to 0xDF select (R72). -/
def opmapRowD : OpMap :=
  [.call, .callalloc, .calla, .ret, .switchrange, .switchlist, .jmpAbs, .jzAbs, .jnzAbs, .jmpRel8, .jzRel8,
   .jnzRel8, .illegal, .illegal, .illegal, .illegal]

/-- What 0xE0 to 0xEF select (R72). -/
def opmapRowE : OpMap :=
  [.illegal, .illegal, .illegal, .illegal, .illegal, .illegal, .illegal, .illegal, .illegal, .illegal,
   .illegal, .illegal, .illegal, .illegal, .illegal, .illegal]

/-- What 0xF0 to 0xFF select (R72). -/
def opmapRowF : OpMap :=
  [.illegal, .illegal, .illegal, .illegal, .illegal, .illegal, .illegal, .illegal, .illegal, .illegal,
   .illegal, .illegal, .illegal, .illegal, .illegal, .reservedNop]

/-- The default binding of `OPMAP` (R70, R72; decisions D1, D3, D22; assumption log 1). -/
def defaultOpmap : OpMap :=
  opmapRow8 ++ opmapRow9 ++ opmapRowA ++ opmapRowB ++ opmapRowC ++ opmapRowD ++ opmapRowE ++ opmapRowF

end Sys2Proof.Machine

namespace Sys2Proof.Config

/-- The default bindings of R7. -/
def defaultParams : Params :=
  { opmap := Machine.defaultOpmap, div0 := .fault, switchRange := .literal, rel8 := .backward }

end Sys2Proof.Config
end

