-- ==== Sys2Proof/Syntax.lean ====
section
/-! DEFINITION. The instructions of the Sea16 CORE: one constructor for each mnemonic of spec/opcode_table.json
(spec/30_encoding.md R64, R65, R72), with the operands its format gives it. The table's two NOP rows and its 43 ILLEGAL
rows differ only in the code byte, which is an operand here. -/

namespace Sys2Proof

/-- The mode field of DCOUNT's operand byte (R67, decision D20). -/
inductive DcMode where
  | ldpost
  | stpost
  | ldpre
  | stpre
deriving DecidableEq, Repr

/-- The step selector of DCOUNT's operand byte: +1, +2, -1, -2 (R67). -/
inductive DcStep where
  | plus1
  | plus2
  | minus1
  | minus2
deriving DecidableEq, Repr

/-- The instruction set: 8 tier-1 instructions, 83 tier-2 instructions, the reserved no-op and the illegal opcode (R73). -/
inductive Instr where
  -- Tier 1: the nibble-block space 0x00-0x7F (R64)
  /-- LDA_FAST, 0x00 + n (R100). -/
  | ldaFast (n : Nibble)
  /-- LDB_FAST, 0x10 + n (R101). -/
  | ldbFast (n : Nibble)
  /-- PUSH_FAST, 0x20 + n (R102). -/
  | pushFast (n : Nibble)
  /-- STA_FAST, 0x30 + n (R103). -/
  | staFast (n : Nibble)
  /-- LDA_I4, 0x40 + n (R104). -/
  | ldaI4 (n : Nibble)
  /-- LDB_I4, 0x50 + n (R105). -/
  | ldbI4 (n : Nibble)
  /-- PUSH_I4, 0x60 + n (R106). -/
  | pushI4 (n : Nibble)
  /-- ADD_I4, 0x70 + n (R107). -/
  | addI4 (n : Nibble)
  -- Loads and stores, near / far / absolute (R120 to R134)
  /-- LDA_NEAR, 0x80 (R120). -/
  | ldaNear (d8 : Byte)
  /-- LDA_FAR, 0x81 (R121). -/
  | ldaFar (d16 : Word)
  /-- LDA_ABS, 0x82 (R122). -/
  | ldaAbs (a16 : Word)
  /-- LDB_NEAR, 0x83 (R123). -/
  | ldbNear (d8 : Byte)
  /-- LDB_FAR, 0x84 (R124). -/
  | ldbFar (d16 : Word)
  /-- LDB_ABS, 0x85 (R125). -/
  | ldbAbs (a16 : Word)
  /-- STA_NEAR, 0x86 (R126). -/
  | staNear (d8 : Byte)
  /-- STA_FAR, 0x87 (R127). -/
  | staFar (d16 : Word)
  /-- STA_ABS, 0x88 (R128). -/
  | staAbs (a16 : Word)
  /-- LDAB_NEAR, 0x89 (R129). -/
  | ldabNear (d8 : Byte)
  /-- LDAB_FAR, 0x8A (R130). -/
  | ldabFar (d16 : Word)
  /-- LDAB_ABS, 0x8B (R131). -/
  | ldabAbs (a16 : Word)
  /-- STAB_NEAR, 0x8C (R132). -/
  | stabNear (d8 : Byte)
  /-- STAB_FAR, 0x8D (R133). -/
  | stabFar (d16 : Word)
  /-- STAB_ABS, 0x8E (R134). -/
  | stabAbs (a16 : Word)
  -- Reserved no-ops and the illegal opcode (R300, R301)
  /-- NOP, the reserved codes 0x8F and 0xFF (R300); `op` is the code. -/
  | nop (op : Byte)
  /-- ILLEGAL, a byte no tier defines (R301); `op` is the code, which the diagnostic carries. -/
  | illegal (op : Byte)
  -- Immediate loads (R135 to R140)
  /-- LDA_S8, 0x90 (R135). -/
  | ldaS8 (imm8 : Byte)
  /-- LDA_U8, 0x91 (R136). -/
  | ldaU8 (imm8 : Byte)
  /-- LDA_I16, 0x92 (R137). -/
  | ldaI16 (imm16 : Word)
  /-- LDB_S8, 0x93 (R138). -/
  | ldbS8 (imm8 : Byte)
  /-- LDB_U8, 0x94 (R139). -/
  | ldbU8 (imm8 : Byte)
  /-- LDB_I16, 0x95 (R140). -/
  | ldbI16 (imm16 : Word)
  -- Indirect access through A (R141 to R144)
  /-- DEREF, 0x96 (R141). -/
  | deref
  /-- DEREFB, 0x97 (R142). -/
  | derefb
  /-- POPSTORE, 0x98 (R143). -/
  | popstore
  /-- POPSTOREB, 0x99 (R144). -/
  | popstoreb
  -- Stack and stack pointer (R150 to R156)
  /-- PUSHA, 0x9A (R150). -/
  | pusha
  /-- PUSHB, 0x9B (R151). -/
  | pushb
  /-- POPA, 0x9C (R152). -/
  | popa
  /-- POPB, 0x9D (R153). -/
  | popb
  /-- GETSP, 0x9E (R154). -/
  | getsp
  /-- SETSP, 0x9F (R155). -/
  | setsp
  /-- ALLOCZ, 0xC7 (R156). -/
  | allocz (count8 : Byte)
  -- Calls and return (R160 to R163)
  /-- CALL, 0xD0 (R160). -/
  | call (a16 : Word)
  /-- CALLALLOC, 0xD1 (R161). -/
  | callalloc (a16 : Word) (alloc8 : Byte)
  /-- CALLA, 0xD2 (R162). -/
  | calla
  /-- RET, 0xD3 (R163). -/
  | ret
  -- ALU (R180 to R195)
  /-- ADD, 0xA0 (R180). -/
  | add
  /-- SUB, 0xA1 (R181). -/
  | sub
  /-- RSUB, 0xA2 (R182). -/
  | rsub
  /-- MUL, 0xA3 (R183). -/
  | mul
  /-- DIVU, 0xA4 (R184). -/
  | divu
  /-- DIVS, 0xA5 (R185). -/
  | divs
  /-- MODU, 0xA6 (R186). -/
  | modu
  /-- MODS, 0xA7 (R187). -/
  | mods
  /-- NEG, 0xA8 (R188). -/
  | neg
  /-- NOT, 0xA9 (R189). -/
  | not
  /-- AND, 0xAA (R190). -/
  | and
  /-- OR, 0xAB (R191). -/
  | or
  /-- XOR, 0xAC (R192). -/
  | xor
  /-- SHL, 0xAD (R193). -/
  | shl
  /-- SHR, 0xAE (R194). -/
  | shr
  /-- ASR, 0xAF (R195). -/
  | asr
  -- Comparisons (R200 to R209)
  /-- EQ, 0xB0 (R200). -/
  | eq
  /-- NE, 0xB1 (R201). -/
  | ne
  /-- ULT, 0xB2 (R202). -/
  | ult
  /-- ULE, 0xB3 (R203). -/
  | ule
  /-- UGT, 0xB4 (R204). -/
  | ugt
  /-- UGE, 0xB5 (R205). -/
  | uge
  /-- SLT, 0xB6 (R206). -/
  | slt
  /-- SLE, 0xB7 (R207). -/
  | sle
  /-- SGT, 0xB8 (R208). -/
  | sgt
  /-- SGE, 0xB9 (R209). -/
  | sge
  -- Extension (R215 to R218)
  /-- SXA, 0xBA (R215). -/
  | sxa
  /-- ZXA, 0xBB (R216). -/
  | zxa
  /-- SXB, 0xBC (R217). -/
  | sxb
  /-- ZXB, 0xBD (R218). -/
  | zxb
  -- Bit-field and direct-count (R280 to R283); the width is `wm1 + 1`
  /-- SLOADBF, 0xC0 (R280). -/
  | sloadbf (start wm1 : Nibble)
  /-- ULOADBF, 0xC1 (R281). -/
  | uloadbf (start wm1 : Nibble)
  /-- STOREBF, 0xC2 (R282). -/
  | storebf (start wm1 : Nibble)
  /-- DCOUNT, 0xC3 (R283). -/
  | dcount (mode : DcMode) (step : DcStep) (index : Nibble)
  -- Block memory and I/O port (R260 to R266)
  /-- BCOPY, 0xC4 (R264). -/
  | bcopy (count16 : Word)
  /-- BFILL, 0xC5 (R265). -/
  | bfill (count16 : Word)
  /-- BCMP, 0xC6 (R266). -/
  | bcmp (count16 : Word)
  /-- IN, 0xC8 (R260). -/
  | portIn (port8 : Byte)
  /-- OUT, 0xC9 (R261). -/
  | portOut (port8 : Byte)
  -- Control transfer (R231 to R239)
  /-- SWITCHRANGE, 0xD4 (R237, R238); the jump table follows and is read, not consumed. -/
  | switchrange (low16 high16 default16 : Word)
  /-- SWITCHLIST, 0xD5 (R239); a pair is (value16, target16), the count N8 is the length of the list. -/
  | switchlist (pairs : List (Word × Word)) (default16 : Word)
  /-- JMP_ABS, 0xD6 (R234). -/
  | jmpAbs (a16 : Word)
  /-- JZ_ABS, 0xD7 (R235). -/
  | jzAbs (a16 : Word)
  /-- JNZ_ABS, 0xD8 (R236). -/
  | jnzAbs (a16 : Word)
  /-- JMP_REL8, 0xD9 (R231). -/
  | jmpRel8 (d8 : Byte)
  /-- JZ_REL8, 0xDA (R232). -/
  | jzRel8 (d8 : Byte)
  /-- JNZ_REL8, 0xDB (R233). -/
  | jnzRel8 (d8 : Byte)
deriving DecidableEq, Repr

end Sys2Proof
end

