-- ==== Sys2Proof/WellFormed.lean ====
section
/-! DEFINITION. Which instruction terms an encoding exists for under a binding of `OPMAP`. The operand types already
bound every field, so three checks remain: a reserved no-op or an illegal opcode carries a byte that the map gives that
meaning (R63, R70), and SWITCHLIST's count is one byte (R239). -/

namespace Sys2Proof

open Machine in
/-- The instruction has an encoding under a binding of `OPMAP`. -/
def Instr.wellFormed (m : Config.OpMap) : Instr → Bool
  | .ldaFast _ => true
  | .ldbFast _ => true
  | .pushFast _ => true
  | .staFast _ => true
  | .ldaI4 _ => true
  | .ldbI4 _ => true
  | .pushI4 _ => true
  | .addI4 _ => true
  | .ldaNear _ => true
  | .ldaFar _ => true
  | .ldaAbs _ => true
  | .ldbNear _ => true
  | .ldbFar _ => true
  | .ldbAbs _ => true
  | .staNear _ => true
  | .staFar _ => true
  | .staAbs _ => true
  | .ldabNear _ => true
  | .ldabFar _ => true
  | .ldabAbs _ => true
  | .stabNear _ => true
  | .stabFar _ => true
  | .stabAbs _ => true
  | .nop op => op.msb && kindAt m op == .reservedNop
  | .illegal op => op.msb && kindAt m op == .illegal
  | .ldaS8 _ => true
  | .ldaU8 _ => true
  | .ldaI16 _ => true
  | .ldbS8 _ => true
  | .ldbU8 _ => true
  | .ldbI16 _ => true
  | .deref => true
  | .derefb => true
  | .popstore => true
  | .popstoreb => true
  | .pusha => true
  | .pushb => true
  | .popa => true
  | .popb => true
  | .getsp => true
  | .setsp => true
  | .allocz _ => true
  | .call _ => true
  | .callalloc _ _ => true
  | .calla => true
  | .ret => true
  | .add => true
  | .sub => true
  | .rsub => true
  | .mul => true
  | .divu => true
  | .divs => true
  | .modu => true
  | .mods => true
  | .neg => true
  | .not => true
  | .and => true
  | .or => true
  | .xor => true
  | .shl => true
  | .shr => true
  | .asr => true
  | .eq => true
  | .ne => true
  | .ult => true
  | .ule => true
  | .ugt => true
  | .uge => true
  | .slt => true
  | .sle => true
  | .sgt => true
  | .sge => true
  | .sxa => true
  | .zxa => true
  | .sxb => true
  | .zxb => true
  | .sloadbf _ _ => true
  | .uloadbf _ _ => true
  | .storebf _ _ => true
  | .dcount _ _ _ => true
  | .bcopy _ => true
  | .bfill _ => true
  | .bcmp _ => true
  | .portIn _ => true
  | .portOut _ => true
  | .switchrange _ _ _ => true
  | .switchlist pairs _ => decide (pairs.length ≤ 255)
  | .jmpAbs _ => true
  | .jzAbs _ => true
  | .jnzAbs _ => true
  | .jmpRel8 _ => true
  | .jzRel8 _ => true
  | .jnzRel8 _ => true

end Sys2Proof
end

