-- ==== Sys2Proof/Decode.lean ====
section
/-! DEFINITION. The two-tier decoder (spec/30_encoding.md R60 to R72), total on any list of bytes, and the encoder
written from the same tables. A decoder that is given fewer bytes than the instruction has refuses by name; over the
machine's memory, which wraps, that never happens. -/

namespace Sys2Proof

open Machine

/-- Why a list of bytes is no instruction. Every opcode byte decodes (R69), so only the list can fall short. -/
inductive DecodeError where
  /-- The list is empty: there is no opcode byte. -/
  | noOpcode
  /-- The list ends inside the operand bytes of the instruction with this opcode. -/
  | truncated (op : Byte)
deriving DecidableEq, Repr

/-- The operand formats of R65, each with the instruction its operands make. -/
inductive Shape where
  /-- `OP`: the opcode byte alone. -/
  | op (i : Instr)
  /-- `OP_B8`: one operand byte. -/
  | opB8 (k : Byte → Instr)
  /-- `OP_W16`: one little-endian word. -/
  | opW16 (k : Word → Instr)
  /-- `OP_W16_B8`: a word, then a byte. -/
  | opW16B8 (k : Word → Byte → Instr)
  /-- `OP_SWR`: low, high and default words; the jump table after them is not consumed. -/
  | opSwr (k : Word → Word → Word → Instr)
  /-- `OP_SWL`: the count N8, N8 pairs of words and the default word. -/
  | opSwl (k : List (Word × Word) → Word → Instr)

/-- `mode = dc[7:6]` of DCOUNT's operand byte (R67). -/
def dcModeOf (dc : Byte) : DcMode :=
  match (dc.extractLsb' 6 2).toNat with
  | 0 => .ldpost
  | 1 => .stpost
  | 2 => .ldpre
  | _ => .stpre

/-- `stepsel = dc[5:4]` of DCOUNT's operand byte (R67). -/
def dcStepOf (dc : Byte) : DcStep :=
  match (dc.extractLsb' 4 2).toNat with
  | 0 => .plus1
  | 1 => .plus2
  | 2 => .minus1
  | _ => .minus2

/-- The tier-1 instruction of block `op[6:4]` with inline operand `n` (R64). -/
def tier1 (n : Nibble) : Nat → Instr
  | 0 => .ldaFast n
  | 1 => .ldbFast n
  | 2 => .pushFast n
  | 3 => .staFast n
  | 4 => .ldaI4 n
  | 5 => .ldbI4 n
  | 6 => .pushI4 n
  | _ => .addI4 n

/-- The format of a tier-2 instruction, a reserved no-op or an illegal opcode (R65, R300, R301); the last two carry their
byte and have no operands. -/
def shapeOf (op : Byte) : Config.OpKind → Shape
  | .ldaNear => .opB8 .ldaNear
  | .ldaFar => .opW16 .ldaFar
  | .ldaAbs => .opW16 .ldaAbs
  | .ldbNear => .opB8 .ldbNear
  | .ldbFar => .opW16 .ldbFar
  | .ldbAbs => .opW16 .ldbAbs
  | .staNear => .opB8 .staNear
  | .staFar => .opW16 .staFar
  | .staAbs => .opW16 .staAbs
  | .ldabNear => .opB8 .ldabNear
  | .ldabFar => .opW16 .ldabFar
  | .ldabAbs => .opW16 .ldabAbs
  | .stabNear => .opB8 .stabNear
  | .stabFar => .opW16 .stabFar
  | .stabAbs => .opW16 .stabAbs
  | .ldaS8 => .opB8 .ldaS8
  | .ldaU8 => .opB8 .ldaU8
  | .ldaI16 => .opW16 .ldaI16
  | .ldbS8 => .opB8 .ldbS8
  | .ldbU8 => .opB8 .ldbU8
  | .ldbI16 => .opW16 .ldbI16
  | .deref => .op .deref
  | .derefb => .op .derefb
  | .popstore => .op .popstore
  | .popstoreb => .op .popstoreb
  | .pusha => .op .pusha
  | .pushb => .op .pushb
  | .popa => .op .popa
  | .popb => .op .popb
  | .getsp => .op .getsp
  | .setsp => .op .setsp
  | .add => .op .add
  | .sub => .op .sub
  | .rsub => .op .rsub
  | .mul => .op .mul
  | .divu => .op .divu
  | .divs => .op .divs
  | .modu => .op .modu
  | .mods => .op .mods
  | .neg => .op .neg
  | .not => .op .not
  | .and => .op .and
  | .or => .op .or
  | .xor => .op .xor
  | .shl => .op .shl
  | .shr => .op .shr
  | .asr => .op .asr
  | .eq => .op .eq
  | .ne => .op .ne
  | .ult => .op .ult
  | .ule => .op .ule
  | .ugt => .op .ugt
  | .uge => .op .uge
  | .slt => .op .slt
  | .sle => .op .sle
  | .sgt => .op .sgt
  | .sge => .op .sge
  | .sxa => .op .sxa
  | .zxa => .op .zxa
  | .sxb => .op .sxb
  | .zxb => .op .zxb
  | .sloadbf => .opB8 (fun bf => .sloadbf (highNibble bf) (lowNibble bf))
  | .uloadbf => .opB8 (fun bf => .uloadbf (highNibble bf) (lowNibble bf))
  | .storebf => .opB8 (fun bf => .storebf (highNibble bf) (lowNibble bf))
  | .dcount => .opB8 (fun dc => .dcount (dcModeOf dc) (dcStepOf dc) (lowNibble dc))
  | .bcopy => .opW16 .bcopy
  | .bfill => .opW16 .bfill
  | .bcmp => .opW16 .bcmp
  | .allocz => .opB8 .allocz
  | .portIn => .opB8 .portIn
  | .portOut => .opB8 .portOut
  | .call => .opW16 .call
  | .callalloc => .opW16B8 .callalloc
  | .calla => .op .calla
  | .ret => .op .ret
  | .switchrange => .opSwr .switchrange
  | .switchlist => .opSwl .switchlist
  | .jmpAbs => .opW16 .jmpAbs
  | .jzAbs => .opW16 .jzAbs
  | .jnzAbs => .opW16 .jnzAbs
  | .jmpRel8 => .opB8 .jmpRel8
  | .jzRel8 => .opB8 .jzRel8
  | .jnzRel8 => .opB8 .jnzRel8
  | .reservedNop => .op (.nop op)
  | .illegal => .op (.illegal op)

/-- The format and the instruction that the opcode byte alone selects under a binding of `OPMAP` (R63, R64, R70). -/
def select (m : Config.OpMap) (op : Byte) : Shape :=
  if op.msb then shapeOf op (kindAt m op) else .op (tier1 (lowNibble op) (highNibble op).toNat)

/-- `Fetch16` on a list: the low byte stands first (R61). -/
def takeWord : List Byte → Option (Word × List Byte)
  | lo :: hi :: bs => some (joinBytes lo hi, bs)
  | _ => none

/-- `n` pairs `(value16, target16)` in encoding order (R239). -/
def takePairs : Nat → List Byte → Option (List (Word × Word) × List Byte)
  | 0, bs => some ([], bs)
  | n + 1, bs => do
    let (v, bs) ← takeWord bs
    let (t, bs) ← takeWord bs
    let (ps, bs) ← takePairs n bs
    some ((v, t) :: ps, bs)

/-- The operands of a format, consumed strictly in the order they stand (R62), and the bytes left. -/
def takeOperands : Shape → List Byte → Option (Instr × List Byte)
  | .op i, bs => some (i, bs)
  | .opB8 k, b :: bs => some (k b, bs)
  | .opB8 _, [] => none
  | .opW16 k, bs => do
    let (w, bs) ← takeWord bs
    some (k w, bs)
  | .opW16B8 k, bs => do
    let (w, bs) ← takeWord bs
    match bs with
    | b :: bs => some (k w b, bs)
    | [] => none
  | .opSwr k, bs => do
    let (low, bs) ← takeWord bs
    let (high, bs) ← takeWord bs
    let (dflt, bs) ← takeWord bs
    some (k low high dflt, bs)
  | .opSwl _, [] => none
  | .opSwl k, n :: bs => do
    let (ps, bs) ← takePairs n.toNat bs
    let (dflt, bs) ← takeWord bs
    some (k ps dflt, bs)

/-- The instruction at the head of a list of bytes under a binding of `OPMAP`, and the bytes after it (R60, R63, R69). -/
def decode (m : Config.OpMap) : List Byte → Except DecodeError (Instr × List Byte)
  | [] => .error .noOpcode
  | op :: bs =>
    match takeOperands (select m op) bs with
    | some r => .ok r
    | none => .error (.truncated op)

/-- The longest instruction, SWITCHLIST with 255 pairs: 2 + 4 * 255 + 2 bytes (R65). -/
def maxLength : Nat := 1024

/-- A word as its two instruction bytes, low byte first (R61). -/
def wordBytes (w : Word) : List Byte := [lowByte w, highByte w]

/-- The pairs of SWITCHLIST as they stand in the stream (R239). -/
def pairBytes : List (Word × Word) → List Byte
  | [] => []
  | (v, t) :: ps => wordBytes v ++ wordBytes t ++ pairBytes ps

/-- The mode field of DCOUNT's operand byte (R67). -/
def dcModeBits : DcMode → BitVec 2
  | .ldpost => 0
  | .stpost => 1
  | .ldpre => 2
  | .stpre => 3

/-- The step selector of DCOUNT's operand byte (R67). -/
def dcStepBits : DcStep → BitVec 2
  | .plus1 => 0
  | .plus2 => 1
  | .minus1 => 2
  | .minus2 => 3

/-- The opcode byte of an instruction under a binding of `OPMAP` (R7, R64). -/
def opcode (m : Config.OpMap) : Instr → Byte
  | .ldaFast n => 0x0#4 ++ n
  | .ldbFast n => 0x1#4 ++ n
  | .pushFast n => 0x2#4 ++ n
  | .staFast n => 0x3#4 ++ n
  | .ldaI4 n => 0x4#4 ++ n
  | .ldbI4 n => 0x5#4 ++ n
  | .pushI4 n => 0x6#4 ++ n
  | .addI4 n => 0x7#4 ++ n
  | .ldaNear _ => codeOf m .ldaNear
  | .ldaFar _ => codeOf m .ldaFar
  | .ldaAbs _ => codeOf m .ldaAbs
  | .ldbNear _ => codeOf m .ldbNear
  | .ldbFar _ => codeOf m .ldbFar
  | .ldbAbs _ => codeOf m .ldbAbs
  | .staNear _ => codeOf m .staNear
  | .staFar _ => codeOf m .staFar
  | .staAbs _ => codeOf m .staAbs
  | .ldabNear _ => codeOf m .ldabNear
  | .ldabFar _ => codeOf m .ldabFar
  | .ldabAbs _ => codeOf m .ldabAbs
  | .stabNear _ => codeOf m .stabNear
  | .stabFar _ => codeOf m .stabFar
  | .stabAbs _ => codeOf m .stabAbs
  | .nop op => op
  | .illegal op => op
  | .ldaS8 _ => codeOf m .ldaS8
  | .ldaU8 _ => codeOf m .ldaU8
  | .ldaI16 _ => codeOf m .ldaI16
  | .ldbS8 _ => codeOf m .ldbS8
  | .ldbU8 _ => codeOf m .ldbU8
  | .ldbI16 _ => codeOf m .ldbI16
  | .deref => codeOf m .deref
  | .derefb => codeOf m .derefb
  | .popstore => codeOf m .popstore
  | .popstoreb => codeOf m .popstoreb
  | .pusha => codeOf m .pusha
  | .pushb => codeOf m .pushb
  | .popa => codeOf m .popa
  | .popb => codeOf m .popb
  | .getsp => codeOf m .getsp
  | .setsp => codeOf m .setsp
  | .allocz _ => codeOf m .allocz
  | .call _ => codeOf m .call
  | .callalloc _ _ => codeOf m .callalloc
  | .calla => codeOf m .calla
  | .ret => codeOf m .ret
  | .add => codeOf m .add
  | .sub => codeOf m .sub
  | .rsub => codeOf m .rsub
  | .mul => codeOf m .mul
  | .divu => codeOf m .divu
  | .divs => codeOf m .divs
  | .modu => codeOf m .modu
  | .mods => codeOf m .mods
  | .neg => codeOf m .neg
  | .not => codeOf m .not
  | .and => codeOf m .and
  | .or => codeOf m .or
  | .xor => codeOf m .xor
  | .shl => codeOf m .shl
  | .shr => codeOf m .shr
  | .asr => codeOf m .asr
  | .eq => codeOf m .eq
  | .ne => codeOf m .ne
  | .ult => codeOf m .ult
  | .ule => codeOf m .ule
  | .ugt => codeOf m .ugt
  | .uge => codeOf m .uge
  | .slt => codeOf m .slt
  | .sle => codeOf m .sle
  | .sgt => codeOf m .sgt
  | .sge => codeOf m .sge
  | .sxa => codeOf m .sxa
  | .zxa => codeOf m .zxa
  | .sxb => codeOf m .sxb
  | .zxb => codeOf m .zxb
  | .sloadbf _ _ => codeOf m .sloadbf
  | .uloadbf _ _ => codeOf m .uloadbf
  | .storebf _ _ => codeOf m .storebf
  | .dcount _ _ _ => codeOf m .dcount
  | .bcopy _ => codeOf m .bcopy
  | .bfill _ => codeOf m .bfill
  | .bcmp _ => codeOf m .bcmp
  | .portIn _ => codeOf m .portIn
  | .portOut _ => codeOf m .portOut
  | .switchrange _ _ _ => codeOf m .switchrange
  | .switchlist _ _ => codeOf m .switchlist
  | .jmpAbs _ => codeOf m .jmpAbs
  | .jzAbs _ => codeOf m .jzAbs
  | .jnzAbs _ => codeOf m .jnzAbs
  | .jmpRel8 _ => codeOf m .jmpRel8
  | .jzRel8 _ => codeOf m .jzRel8
  | .jnzRel8 _ => codeOf m .jnzRel8

/-- The operand bytes of an instruction, which no binding changes (R62, R65, R66, R67). -/
def operandBytes : Instr → List Byte
  | .ldaFast _ => []
  | .ldbFast _ => []
  | .pushFast _ => []
  | .staFast _ => []
  | .ldaI4 _ => []
  | .ldbI4 _ => []
  | .pushI4 _ => []
  | .addI4 _ => []
  | .ldaNear d8 => [d8]
  | .ldaFar d16 => wordBytes d16
  | .ldaAbs a16 => wordBytes a16
  | .ldbNear d8 => [d8]
  | .ldbFar d16 => wordBytes d16
  | .ldbAbs a16 => wordBytes a16
  | .staNear d8 => [d8]
  | .staFar d16 => wordBytes d16
  | .staAbs a16 => wordBytes a16
  | .ldabNear d8 => [d8]
  | .ldabFar d16 => wordBytes d16
  | .ldabAbs a16 => wordBytes a16
  | .stabNear d8 => [d8]
  | .stabFar d16 => wordBytes d16
  | .stabAbs a16 => wordBytes a16
  | .nop _ => []
  | .illegal _ => []
  | .ldaS8 imm8 => [imm8]
  | .ldaU8 imm8 => [imm8]
  | .ldaI16 imm16 => wordBytes imm16
  | .ldbS8 imm8 => [imm8]
  | .ldbU8 imm8 => [imm8]
  | .ldbI16 imm16 => wordBytes imm16
  | .deref => []
  | .derefb => []
  | .popstore => []
  | .popstoreb => []
  | .pusha => []
  | .pushb => []
  | .popa => []
  | .popb => []
  | .getsp => []
  | .setsp => []
  | .allocz count8 => [count8]
  | .call a16 => wordBytes a16
  | .callalloc a16 alloc8 => wordBytes a16 ++ [alloc8]
  | .calla => []
  | .ret => []
  | .add => []
  | .sub => []
  | .rsub => []
  | .mul => []
  | .divu => []
  | .divs => []
  | .modu => []
  | .mods => []
  | .neg => []
  | .not => []
  | .and => []
  | .or => []
  | .xor => []
  | .shl => []
  | .shr => []
  | .asr => []
  | .eq => []
  | .ne => []
  | .ult => []
  | .ule => []
  | .ugt => []
  | .uge => []
  | .slt => []
  | .sle => []
  | .sgt => []
  | .sge => []
  | .sxa => []
  | .zxa => []
  | .sxb => []
  | .zxb => []
  | .sloadbf start wm1 => [start ++ wm1]
  | .uloadbf start wm1 => [start ++ wm1]
  | .storebf start wm1 => [start ++ wm1]
  | .dcount mode step index => [dcModeBits mode ++ dcStepBits step ++ index]
  | .bcopy count16 => wordBytes count16
  | .bfill count16 => wordBytes count16
  | .bcmp count16 => wordBytes count16
  | .portIn port8 => [port8]
  | .portOut port8 => [port8]
  | .switchrange low16 high16 default16 => wordBytes low16 ++ wordBytes high16 ++ wordBytes default16
  | .switchlist pairs default16 => BitVec.ofNat 8 pairs.length :: pairBytes pairs ++ wordBytes default16
  | .jmpAbs a16 => wordBytes a16
  | .jzAbs a16 => wordBytes a16
  | .jnzAbs a16 => wordBytes a16
  | .jmpRel8 d8 => [d8]
  | .jzRel8 d8 => [d8]
  | .jnzRel8 d8 => [d8]

/-- The bytes of an instruction under a binding of `OPMAP`, opcode first (R60). -/
def encode (m : Config.OpMap) (i : Instr) : List Byte := opcode m i :: operandBytes i

/-- The length in bytes that the `len` column of R72 gives; of SWITCHRANGE, what it consumes (R71). -/
def Instr.length : Instr → Nat
  | .ldaFast _ => 1
  | .ldbFast _ => 1
  | .pushFast _ => 1
  | .staFast _ => 1
  | .ldaI4 _ => 1
  | .ldbI4 _ => 1
  | .pushI4 _ => 1
  | .addI4 _ => 1
  | .ldaNear _ => 2
  | .ldaFar _ => 3
  | .ldaAbs _ => 3
  | .ldbNear _ => 2
  | .ldbFar _ => 3
  | .ldbAbs _ => 3
  | .staNear _ => 2
  | .staFar _ => 3
  | .staAbs _ => 3
  | .ldabNear _ => 2
  | .ldabFar _ => 3
  | .ldabAbs _ => 3
  | .stabNear _ => 2
  | .stabFar _ => 3
  | .stabAbs _ => 3
  | .nop _ => 1
  | .illegal _ => 1
  | .ldaS8 _ => 2
  | .ldaU8 _ => 2
  | .ldaI16 _ => 3
  | .ldbS8 _ => 2
  | .ldbU8 _ => 2
  | .ldbI16 _ => 3
  | .deref => 1
  | .derefb => 1
  | .popstore => 1
  | .popstoreb => 1
  | .pusha => 1
  | .pushb => 1
  | .popa => 1
  | .popb => 1
  | .getsp => 1
  | .setsp => 1
  | .allocz _ => 2
  | .call _ => 3
  | .callalloc _ _ => 4
  | .calla => 1
  | .ret => 1
  | .add => 1
  | .sub => 1
  | .rsub => 1
  | .mul => 1
  | .divu => 1
  | .divs => 1
  | .modu => 1
  | .mods => 1
  | .neg => 1
  | .not => 1
  | .and => 1
  | .or => 1
  | .xor => 1
  | .shl => 1
  | .shr => 1
  | .asr => 1
  | .eq => 1
  | .ne => 1
  | .ult => 1
  | .ule => 1
  | .ugt => 1
  | .uge => 1
  | .slt => 1
  | .sle => 1
  | .sgt => 1
  | .sge => 1
  | .sxa => 1
  | .zxa => 1
  | .sxb => 1
  | .zxb => 1
  | .sloadbf _ _ => 2
  | .uloadbf _ _ => 2
  | .storebf _ _ => 2
  | .dcount _ _ _ => 2
  | .bcopy _ => 3
  | .bfill _ => 3
  | .bcmp _ => 3
  | .portIn _ => 2
  | .portOut _ => 2
  | .switchrange _ _ _ => 7
  | .switchlist pairs _ => 2 + 4 * pairs.length + 2
  | .jmpAbs _ => 3
  | .jzAbs _ => 3
  | .jnzAbs _ => 3
  | .jmpRel8 _ => 2
  | .jzRel8 _ => 2
  | .jnzRel8 _ => 2

/-- The `n` lowest bytes of a number, the least significant first: instruction bytes as the opcode table numbers
their bits. -/
def numberBytes : Nat → Nat → List Byte
  | 0, _ => []
  | n + 1, w => BitVec.ofNat 8 w :: numberBytes n (w / 256)

/-- The bytes of a table word of `nbits` bits. -/
def tableBytes (nbits w : Nat) : List Byte := numberBytes ((nbits + 7) / 8) w

/-- The instruction the decoder reads, under the default binding, from a table word; every bit above `nbits` is 0. -/
def decodeTableWord (nbits w : Nat) : Option Instr :=
  match decode defaultOpmap (tableBytes nbits w ++ List.replicate maxLength 0) with
  | .ok (i, _) => some i
  | .error _ => none

end Sys2Proof
end

