-- ==== Sys2Proof/Machine/Arith.lean ====
section
/-! DEFINITION. The results of the ALU and of the bit-field unit (spec/43_alu.md R180 to R195, spec/46_bitfield_dcount.md
R280 to R282), as total functions of words: exact integer arithmetic, then `trunc16`. -/

namespace Sys2Proof.Machine

/-- The low 16 bits of the product (R183). -/
def mulResult (a b : Word) : Word := trunc16 (a.toNat * b.toNat : Nat)

/-- The unsigned quotient, rounded down, of a non-zero divisor (R184). -/
def divuResult (a b : Word) : Word := trunc16 (a.toNat / b.toNat : Nat)

/-- The signed quotient, rounded toward zero, of a non-zero divisor; -32768 / -1 wraps (R185, decision D8). -/
def divsResult (a b : Word) : Word := trunc16 ((s16 a).tdiv (s16 b))

/-- The unsigned remainder of a non-zero divisor (R186). -/
def moduResult (a b : Word) : Word := trunc16 (a.toNat - b.toNat * (a.toNat / b.toNat) : Nat)

/-- The signed remainder of a non-zero divisor; it has the dividend's sign (R187, decision D8). -/
def modsResult (a b : Word) : Word := trunc16 (s16 a - s16 b * (s16 a).tdiv (s16 b))

/-- Logical shift left by the whole of B; 16 or more gives 0 (R193). -/
def shlResult (a b : Word) : Word := if b.toNat ≥ 16 then 0x0000 else trunc16 (a.toNat * 2 ^ b.toNat : Nat)

/-- Logical shift right by the whole of B; 16 or more gives 0 (R194). -/
def shrResult (a b : Word) : Word := if b.toNat ≥ 16 then 0x0000 else trunc16 (a.toNat / 2 ^ b.toNat : Nat)

/-- Arithmetic shift right by `min(B, 15)`, rounding toward minus infinity (R195). -/
def asrResult (a b : Word) : Word := trunc16 ((s16 a).fdiv (2 ^ min b.toNat 15))

/-- `mask(w) = 2^w - 1`, w from 1 to 16, without overflow (46_bitfield_dcount.md section 1). -/
def fieldMask (w : Nat) : Word := trunc16 (2 ^ w - 1 : Nat)

/-- `(B >> s) AND mask(w)`: bits above bit 15 read as 0 (R281, decision D21). -/
def fieldOf (b : Word) (start w : Nat) : Word := (b >>> start) &&& fieldMask w

/-- The field sign-extended from its bit `w - 1` (R280). -/
def signedFieldOf (b : Word) (start w : Nat) : Word :=
  let f := fieldOf b start w
  if f.getLsbD (w - 1) then f ||| (0xFFFF ^^^ fieldMask w) else f

/-- B with the low `w` bits of A put at bit `start`: bits above bit 15 are lost (R282, decision D21). -/
def insertField (a b : Word) (start w : Nat) : Word :=
  let m := trunc16 ((fieldMask w).toNat * 2 ^ start : Nat)
  (b &&& (0xFFFF ^^^ m)) ||| (trunc16 (a.toNat * 2 ^ start : Nat) &&& m)

end Sys2Proof.Machine
end

