-- ==== Sys2Proof/Machine/Flags.lean ====
section
/-! DEFINITION. The CORE has no status flags (spec/10_state.md R26): a condition is delivered as a 0/1 word in A and
tested as a word. This file holds that coercion, the test, and the conditions of the ten comparisons. -/

namespace Sys2Proof.Machine

/-- `bool16(c)`: 0x0001 when the condition holds, 0x0000 otherwise (R11). -/
def bool16 (c : Bool) : Word := if c then 0x0001 else 0x0000

/-- A word is truthy when it is not 0x0000 (R11, decision D33). -/
def truthy (v : Word) : Bool := v ≠ 0x0000

/-- EQ (R200). -/
def condEq (a b : Word) : Bool := a = b
/-- NE (R201). -/
def condNe (a b : Word) : Bool := a ≠ b
/-- ULT: operands read as 0..65535 (R202). -/
def condUlt (a b : Word) : Bool := a.toNat < b.toNat
/-- ULE (R203). -/
def condUle (a b : Word) : Bool := a.toNat ≤ b.toNat
/-- UGT (R204). -/
def condUgt (a b : Word) : Bool := a.toNat > b.toNat
/-- UGE (R205). -/
def condUge (a b : Word) : Bool := a.toNat ≥ b.toNat
/-- SLT: operands read as `s16` (R206). -/
def condSlt (a b : Word) : Bool := s16 a < s16 b
/-- SLE (R207). -/
def condSle (a b : Word) : Bool := s16 a ≤ s16 b
/-- SGT (R208). -/
def condSgt (a b : Word) : Bool := s16 a > s16 b
/-- SGE (R209). -/
def condSge (a b : Word) : Bool := s16 a ≥ s16 b

end Sys2Proof.Machine
end

