-- ==== Sys2Proof/Machine/State.lean ====
section
/-! DEFINITION. The state of the Sea16 CORE and of what its host has answered and received (spec/10_state.md,
spec/60_exceptions.md R321), as plain data; the reasons a step stops; and the state after reset. -/

namespace Sys2Proof.Machine

/-- Memory: the cells that hold something other than `unlistedByte`, by strictly rising address (R28). -/
abbrev Memory := List Host.Cell

/-- What a cell that no list entry names reads as: `INIT_MEM`, default 0x00 (R32, decision D23). DESIGN CHOICE,
unsafe: assumption log 2. -/
def unlistedByte : Byte := 0x00

/-- The one canonical form of a memory: addresses strictly rising and below 2^16, no entry equal to what an unlisted
address reads as. -/
abbrev Memory.wf (m : Memory) : Prop :=
  m.Pairwise (fun c d => c.1 < d.1) ∧ ∀ c ∈ m, c.1 < 65536 ∧ c.2 ≠ unlistedByte

/-- The fault a `Faulted` engine holds (R30, R313): DivideByZero with the address and the byte of its opcode. -/
inductive EngineFault where
  | divideByZero (opaddr : Word) (op : Byte)
deriving DecidableEq, Repr

/-- The engine's one status value (R30). -/
inductive Status where
  | running
  | faulted (f : EngineFault)
deriving DecidableEq, Repr

/-- What the CORE tells its host (R63, R301, R313, R321, R322). -/
inductive Event where
  /-- `Trace(A, B, PC, SP, FP)`: the register snapshot before each step (R322). -/
  | trace (a b pc sp fp : Word)
  /-- `In(opaddr)`: an `IN` on port 0 (R260). -/
  | input (opaddr : Word)
  /-- `Out(byte)`: an `OUT` on port 0 (R261). -/
  | output (byte : Byte)
  /-- `IllegalOpcode(op, opaddr)` (R301, R312). -/
  | illegalOpcode (op : Byte) (opaddr : Word)
  /-- `Fault(DivideByZero, opaddr, op)` (R313). -/
  | fault (f : EngineFault)
deriving DecidableEq, Repr

/-- What the host will do at one `IN` on port 0 (R260, R321). -/
inductive HostAnswer where
  /-- It has a byte. -/
  | byte (b : Byte)
  /-- It never answers: the step is left unfinished. -/
  | silent
deriving DecidableEq, Repr

/-- Why a machine has no next state. -/
inductive Fault where
  /-- Raised by `step` on a `Faulted` engine, which has no further step (R63, R313). Safe: the spec says so. -/
  | engineFaulted (f : EngineFault)
  /-- Raised by IN on port 0 when the host never answers: the step is left unfinished (R260, R321; treatment `stuck`,
  I2). Safe: the machine goes nowhere, as the spec says. -/
  | hostSilent
deriving DecidableEq, Repr

/-- Why the model gives an instruction no meaning. -/
inductive Refusal where
  /-- Raised by an arm of `exec` whose instruction has no meaning in the model; there is none. Safe. -/
  | notModelled (mnemonic : String)
  /-- Raised by `step` when the bytes at PC are no instruction; over a memory that wraps it never is (R69). Safe. -/
  | undecodable
deriving DecidableEq, Repr

/-- The machine. The first eight fields are the spec's (R20, R28, R30); the rest is the model's record of the host
(R321) and of the parameter bindings (R7). -/
structure State where
  /-- The left operand register (R21). -/
  a          : Word
  /-- The right operand register (R22). -/
  b          : Word
  /-- The stack pointer: the next free byte (R23). -/
  sp         : Word
  /-- The frame pointer: the saved-FP slot of the current frame (R24). -/
  fp         : Word
  /-- The program counter: between steps, the address of the next opcode byte (R25). -/
  pc         : Word
  /-- The 65536 memory cells (R28). -/
  mem        : Memory
  /-- Running or Faulted (R30). -/
  status     : Status
  /-- MODEL'S FIELD: what the host will do at the coming `IN`s, first one first; past its end the host is at end of
  input (R260). -/
  input      : List HostAnswer
  /-- MODEL'S FIELD: how many answers past the end of input have been drawn; it picks the free value (log 3). -/
  inputDraws : Nat
  /-- MODEL'S FIELD: every event emitted so far, in order (R321). -/
  events     : List Event
  /-- MODEL'S FIELD: the bindings of the named parameters (R7), which no step changes. -/
  params     : Config.Params
deriving DecidableEq, Repr

/-- What `exec` and `step` answer. -/
abbrev Result := Host.Outcome State Fault Refusal

/-- The machine after a reset with no image under the default bindings (R32, R340). -/
def State.reset : State :=
  { a := 0x0000, b := 0x0000, sp := 0xFFFF, fp := 0xFFFF, pc := 0x0000
    mem := [(0x0000, 0xD9), (0x0001, 0x01)]
    status := .running
    input := [], inputDraws := 0, events := []
    params := Config.defaultParams }

end Sys2Proof.Machine
end

