-- ==== Sys2Proof/Machine/Ops.lean ====
section
/-! DEFINITION. The named operations over memory, registers, stack, call frames, host and engine status
(spec/20_memory.md, spec/60_exceptions.md, spec/70_reset_and_hazards.md). -/

namespace Sys2Proof.Machine

/-! ## Memory as a list of cells -/

/-- The byte of the first entry at an address, or what an unlisted address reads as. -/
def Memory.lookup : Memory → Nat → Byte
  | [], _ => unlistedByte
  | c :: m, k => if c.1 = k then c.2 else lookup m k

/-- The memory with no entry at an address. -/
def Memory.erase (m : Memory) (k : Nat) : Memory := m.filter (fun c => c.1 ≠ k)

/-- The memory with an entry put before the first higher address. -/
def Memory.insert (k : Nat) (v : Byte) : Memory → Memory
  | [] => [(k, v)]
  | c :: m => if k < c.1 then (k, v) :: c :: m else c :: insert k v m

/-- `MemRead(addr, 1)` (R41). -/
def Memory.read (m : Memory) (addr : Word) : Byte := m.lookup addr.toNat

/-- `MemWrite(addr, 1, v)` (R42): writing what an unlisted address reads as removes the entry. -/
def Memory.write (m : Memory) (addr : Word) (v : Byte) : Memory :=
  if v = unlistedByte then m.erase addr.toNat else Memory.insert addr.toNat v (m.erase addr.toNat)

/-- `MemWrite(addr, 2, v)` (R42). -/
def Memory.writeWord (m : Memory) (addr v : Word) : Memory :=
  (m.write addr (lowByte v)).write (addr + 1) (highByte v)

/-- `n` bytes copied from `src` to `dst` one at a time, in ascending order (R264). -/
def Memory.copy (m : Memory) (dst src : Word) : Nat → Memory
  | 0 => m
  | n + 1 => copy (m.write dst (m.read src)) (dst + 1) (src + 1) n

/-- `n` bytes of one value from `dst` up (R265). -/
def Memory.fill (m : Memory) (dst : Word) (v : Byte) : Nat → Memory
  | 0 => m
  | n + 1 => fill (m.write dst v) (dst + 1) v n

/-- `n` zero bytes from `top` down (R156). -/
def Memory.zeroDown (m : Memory) (top : Word) : Nat → Memory
  | 0 => m
  | n + 1 => zeroDown (m.write top 0x00) (top - 1) n

/-- All `n` byte pairs from `x` and `y` up are equal (R266). -/
def Memory.equalBlocks (m : Memory) (x y : Word) : Nat → Bool
  | 0 => true
  | n + 1 => m.read x == m.read y && equalBlocks m (x + 1) (y + 1) n

/-! ## One update per field -/

def State.setA (s : State) (v : Word) : State := { s with a := v }
def State.setB (s : State) (v : Word) : State := { s with b := v }
def State.setSp (s : State) (v : Word) : State := { s with sp := v }
def State.setFp (s : State) (v : Word) : State := { s with fp := v }
def State.setPc (s : State) (v : Word) : State := { s with pc := v }
def State.setMem (s : State) (m : Memory) : State := { s with mem := m }
def State.setStatus (s : State) (v : Status) : State := { s with status := v }
def State.setInput (s : State) (l : List HostAnswer) : State := { s with input := l }
def State.setParams (s : State) (p : Config.Params) : State := { s with params := p }
def State.setInputDraws (s : State) (n : Nat) : State := { s with inputDraws := n }

/-- `emit Event(...)`: the host receives events in the order they are emitted (R10, R321). -/
def State.emit (s : State) (e : Event) : State := { s with events := s.events ++ [e] }

/-- PC after `n` instruction bytes have been fetched, modulo 2^16 (R25, R61). -/
def State.advance (s : State) (n : Nat) : State := s.setPc (s.pc + BitVec.ofNat 16 n)

/-! ## Memory of the machine -/

/-- `MemRead(addr, 1)` (R41). -/
def State.readByte (s : State) (addr : Word) : Byte := s.mem.read addr

/-- `MemRead(addr, 2)`: little-endian, `addr + 1` modulo 2^16 (R41). -/
def State.readWord (s : State) (addr : Word) : Word := joinBytes (s.readByte addr) (s.readByte (addr + 1))

/-- `MemWrite(addr, 1, v)` (R42). -/
def State.writeByte (s : State) (addr : Word) (v : Byte) : State := s.setMem (s.mem.write addr v)

/-- `MemWrite(addr, 2, v)` (R42). -/
def State.writeWord (s : State) (addr v : Word) : State := s.setMem (s.mem.writeWord addr v)

/-- The `n` bytes from `addr` up, modulo 2^16 (R61). -/
def State.bytesFrom (s : State) (addr : Word) : Nat → List Byte
  | 0 => []
  | n + 1 => s.readByte addr :: bytesFrom s (addr + 1) n

/-! ## Stack and call frames -/

/-- `Push(v)` (R46). -/
def State.push (s : State) (v : Word) : State := (s.writeWord (s.sp - 1) v).setSp (s.sp - 2)

/-- The word that `Pop()` returns (R47). -/
def State.top (s : State) : Word := s.readWord (s.sp + 1)

/-- The state that `Pop()` leaves (R47). -/
def State.drop (s : State) : State := s.setSp (s.sp + 2)

/-- `Call(target)`, with PC already past the call instruction's operands (R55). -/
def State.call (s : State) (target : Word) : State :=
  let s := s.push s.pc
  let s := s.push s.fp
  let s := s.setFp (s.sp + 1)
  s.setPc target

/-- `Return()` (R56). -/
def State.ret (s : State) : State :=
  let s := s.setSp (s.fp - 1)
  let s := s.drop.setFp s.top
  s.drop.setPc s.top

/-! ## The host -/

/-- `HOST_INPUT()` (R260, decision D16): the host's next byte zero-extended, a free value at end of input, or `none`
when the host never answers. -/
def State.drawInput (s : State) : Option (Word × State) :=
  match s.input with
  | [] => some (Config.endOfInput s.inputDraws, s.setInputDraws (s.inputDraws + 1))
  | .byte v :: rest => some (zext16 v, s.setInput rest)
  | .silent :: _ => none

/-- The trace hook: the register snapshot at the start of a step (R63, R322, decision D36). -/
def State.trace (s : State) : State := s.emit (.trace s.a s.b s.pc s.sp s.fp)

/-! ## The exceptional conditions, and the way out of one -/

/-- The code of an exceptional condition: 1 IllegalOpcode, 2 DivideByZero (R311, decision D26). -/
def conditionCode : Event → Option Nat
  | .illegalOpcode _ _ => some 1
  | .fault (.divideByZero _ _) => some 2
  | .trace _ _ _ _ _ => none
  | .input _ => none
  | .output _ => none

/-- `emit IllegalOpcode(op, opaddr)`: a diagnostic, not a trap (R301, R312). -/
def State.reportIllegal (s : State) (op : Byte) (opaddr : Word) : State := s.emit (.illegalOpcode op opaddr)

/-- `raise DivideByZero(opaddr, op)` (R313): the status becomes Faulted and the host is told. Nothing is saved, no
vector is read and no mode changes (R315). -/
def State.raiseDivideByZero (s : State) (opaddr : Word) (op : Byte) : State :=
  (s.setStatus (.faulted (.divideByZero opaddr op))).emit (.fault (.divideByZero opaddr op))

/-- The cell `k` after the reset fill and the image (R340, R342). -/
def resetCell (initMem : Word → Byte) (image : List Byte) (k : Nat) : Byte :=
  match image[k]? with
  | some v => v
  | none => if k = 0 then 0xD9 else if k = 1 then 0x01 else initMem (BitVec.ofNat 16 k)

/-- The memory after the reset fill and the image, in its canonical form (R340). -/
def resetMemory (initMem : Word → Byte) (image : List Byte) : Memory :=
  (List.range 65536).filterMap fun k =>
    if resetCell initMem image k = unlistedByte then none else some (k, resetCell initMem image k)

/-- `Reset(image)` (R340), which the host performs before the first step or at any later time; the only way out of
`Faulted` (R316, R341). The host's own input and what it has received are not touched (R343). -/
def State.hostReset (s : State) (initMem : Word → Byte) (image : List Byte) : State :=
  { s with
    a := 0x0000, b := 0x0000, sp := 0xFFFF, fp := 0xFFFF, pc := 0x0000
    mem := resetMemory initMem image
    status := .running }

end Sys2Proof.Machine
end

