-- ==== Sys2Proof/Machine/Alu.lean ====
section
/-! DEFINITION. The ALU instructions (spec/43_alu.md R180 to R218): one byte each, `A <- A op B`, B unchanged
(decision D6). -/

namespace Sys2Proof.Machine

/-- A divide or modulo (R184 to R187): on a zero divisor the bound policy (R196), which raises DivideByZero with the
opcode byte, the one at `opaddr` (assumption log 14), and its address and writes no register but PC, or writes a free
function of the dividend. -/
def divide (result : Word → Word → Word) (onZero : Word → Word) (s : State) : Result :=
  if s.b = 0 then
    match s.params.div0 with
    | .fault => .next ((s.advance 1).raiseDivideByZero s.pc (s.readByte s.pc))
    | .value => .next ((s.advance 1).setA (onZero s.a))
  else .next ((s.advance 1).setA (result s.a s.b))

/-- ADD, modulo 2^16 (R180). -/
def execAdd (s : State) : Result := .next ((s.advance 1).setA (s.a + s.b))

/-- SUB, modulo 2^16 (R181). -/
def execSub (s : State) : Result := .next ((s.advance 1).setA (s.a - s.b))

/-- RSUB, reverse subtract (R182). -/
def execRsub (s : State) : Result := .next ((s.advance 1).setA (s.b - s.a))

/-- MUL (R183). -/
def execMul (s : State) : Result := .next ((s.advance 1).setA (mulResult s.a s.b))

/-- DIVU (R184). -/
def execDivu (s : State) : Result := divide divuResult Config.zeroQuotient s

/-- DIVS (R185). -/
def execDivs (s : State) : Result := divide divsResult Config.zeroQuotient s

/-- MODU (R186). -/
def execModu (s : State) : Result := divide moduResult Config.zeroRemainder s

/-- MODS (R187). -/
def execMods (s : State) : Result := divide modsResult Config.zeroRemainder s

/-- NEG (R188). -/
def execNeg (s : State) : Result := .next ((s.advance 1).setA (0 - s.a))

/-- NOT (R189). -/
def execNot (s : State) : Result := .next ((s.advance 1).setA (s.a ^^^ 0xFFFF))

/-- AND (R190). -/
def execAnd (s : State) : Result := .next ((s.advance 1).setA (s.a &&& s.b))

/-- OR (R191). -/
def execOr (s : State) : Result := .next ((s.advance 1).setA (s.a ||| s.b))

/-- XOR (R192). -/
def execXor (s : State) : Result := .next ((s.advance 1).setA (s.a ^^^ s.b))

/-- SHL (R193). -/
def execShl (s : State) : Result := .next ((s.advance 1).setA (shlResult s.a s.b))

/-- SHR (R194). -/
def execShr (s : State) : Result := .next ((s.advance 1).setA (shrResult s.a s.b))

/-- ASR (R195). -/
def execAsr (s : State) : Result := .next ((s.advance 1).setA (asrResult s.a s.b))

/-- EQ (R200). -/
def execEq (s : State) : Result := .next ((s.advance 1).setA (bool16 (condEq s.a s.b)))

/-- NE (R201). -/
def execNe (s : State) : Result := .next ((s.advance 1).setA (bool16 (condNe s.a s.b)))

/-- ULT (R202). -/
def execUlt (s : State) : Result := .next ((s.advance 1).setA (bool16 (condUlt s.a s.b)))

/-- ULE (R203). -/
def execUle (s : State) : Result := .next ((s.advance 1).setA (bool16 (condUle s.a s.b)))

/-- UGT (R204). -/
def execUgt (s : State) : Result := .next ((s.advance 1).setA (bool16 (condUgt s.a s.b)))

/-- UGE (R205). -/
def execUge (s : State) : Result := .next ((s.advance 1).setA (bool16 (condUge s.a s.b)))

/-- SLT (R206). -/
def execSlt (s : State) : Result := .next ((s.advance 1).setA (bool16 (condSlt s.a s.b)))

/-- SLE (R207). -/
def execSle (s : State) : Result := .next ((s.advance 1).setA (bool16 (condSle s.a s.b)))

/-- SGT (R208). -/
def execSgt (s : State) : Result := .next ((s.advance 1).setA (bool16 (condSgt s.a s.b)))

/-- SGE (R209). -/
def execSge (s : State) : Result := .next ((s.advance 1).setA (bool16 (condSge s.a s.b)))

/-- SXA (R215). -/
def execSxa (s : State) : Result := .next ((s.advance 1).setA (sext16 (lowByte s.a)))

/-- ZXA (R216). -/
def execZxa (s : State) : Result := .next ((s.advance 1).setA (zext16 (lowByte s.a)))

/-- SXB (R217). -/
def execSxb (s : State) : Result := .next ((s.advance 1).setB (sext16 (lowByte s.b)))

/-- ZXB (R218). -/
def execZxb (s : State) : Result := .next ((s.advance 1).setB (zext16 (lowByte s.b)))

end Sys2Proof.Machine
end

