-- ==== Sys2Proof/Machine/Operands.lean ====
section
/-! DEFINITION. The operand forms: the four addressing modes (spec/20_memory.md R51 to R54), the relative-jump target
(spec/44_control.md R230), and the decoded fields of the bit-field and direct-count operand bytes (spec/30_encoding.md
R66, R67). -/

namespace Sys2Proof.Machine

/-- `Fast(i)`: FP-24, FP-22, ..., FP-2, FP+4, FP+6, FP+8, FP+10 (R51). -/
def fastAddr (fp : Word) (i : Nibble) : Word :=
  if i.toNat ≤ 11 then fp - 24 + BitVec.ofNat 16 (2 * i.toNat)
  else fp + 4 + BitVec.ofNat 16 (2 * (i.toNat - 12))

/-- `Near()`: FP plus a sign-extended byte (R52). -/
def nearAddr (fp : Word) (d8 : Byte) : Word := fp + sext16 d8

/-- `Far()`: FP plus a word, modulo 2^16 (R53). -/
def farAddr (fp : Word) (d16 : Word) : Word := fp + d16

/-- `Abs()`: the operand itself (R54). -/
def absAddr (a16 : Word) : Word := a16

/-- `REL8_TARGET(opaddr, d)` (R230): the default binding, or any function that keeps `REL8_TARGET(a, 0x01) = a`
(assumption log 5). -/
def rel8Target (r : Config.Rel8Binding) (opaddr : Word) (d : Byte) : Word :=
  match r with
  | .backward => opaddr + 1 - sext16 d
  | .other => if d = 0x01 then opaddr else Config.otherRel8 opaddr d

/-- `width = wm1 + 1`, 1 to 16 (R66). -/
def fieldWidth (wm1 : Nibble) : Nat := wm1.toNat + 1

/-- The step of DCOUNT as a 16-bit value (R67, R283). -/
def dcStepValue : DcStep → Word
  | .plus1 => 0x0001
  | .plus2 => 0x0002
  | .minus1 => 0xFFFF
  | .minus2 => 0xFFFE

/-- The step is that of a byte pointer: +1 or -1 (R283). -/
def dcIsByte : DcStep → Bool
  | .plus1 => true
  | .plus2 => false
  | .minus1 => true
  | .minus2 => false

/-- `Load(x, size)` of DCOUNT: a byte zero-extends (R283). -/
def State.load (s : State) (st : DcStep) (x : Word) : Word :=
  if dcIsByte st then zext16 (s.readByte x) else s.readWord x

/-- `Store(x, size, v)` of DCOUNT (R283). -/
def State.store (s : State) (st : DcStep) (x v : Word) : State :=
  if dcIsByte st then s.writeByte x (lowByte v) else s.writeWord x v

end Sys2Proof.Machine
end

