-- ==== Sys2Proof/Machine/BitField.lean ====
section
/-! DEFINITION. Bit-field and direct-count instructions (spec/46_bitfield_dcount.md R280 to R283). -/

namespace Sys2Proof.Machine

/-- SLOADBF (R280). -/
def execSloadbf (start wm1 : Nibble) (s : State) : Result :=
  .next ((s.advance 2).setA (signedFieldOf s.b start.toNat (fieldWidth wm1)))

/-- ULOADBF (R281). -/
def execUloadbf (start wm1 : Nibble) (s : State) : Result :=
  .next ((s.advance 2).setA (fieldOf s.b start.toNat (fieldWidth wm1)))

/-- STOREBF (R282). -/
def execStorebf (start wm1 : Nibble) (s : State) : Result :=
  .next ((s.advance 2).setB (insertField s.a s.b start.toNat (fieldWidth wm1)))

/-- DCOUNT: the accesses in the order R283 lists them, with `p` the pointer the slot holds and `q` the stepped one. -/
def execDcount (mode : DcMode) (step : DcStep) (index : Nibble) (s : State) : Result :=
  let slot := fastAddr s.fp index
  let p := s.readWord slot
  let q := p + dcStepValue step
  let s := s.advance 2
  match mode with
  | .ldpost => .next ((s.setA (s.load step p)).writeWord slot q)
  | .stpost => .next ((s.store step p s.a).writeWord slot q)
  | .ldpre => .next ((s.writeWord slot q).setA ((s.writeWord slot q).load step q))
  | .stpre => .next ((s.writeWord slot q).store step q s.a)

end Sys2Proof.Machine
end

