-- ==== Sys2Proof/Machine/Control.lean ====
section
/-! DEFINITION. Control transfer (spec/44_control.md R230 to R239): no register but PC is written, no memory. -/

namespace Sys2Proof.Machine

/-- A jump of an instruction of `len` bytes, taken when the condition holds. -/
def jumpIf (taken : Bool) (len : Nat) (target : Word) (s : State) : Result :=
  .next (if taken then s.setPc target else s.advance len)

/-- JMP_REL8 (R231). -/
def execJmpRel8 (d8 : Byte) (s : State) : Result := jumpIf true 2 (rel8Target s.params.rel8 s.pc d8) s

/-- JZ_REL8 (R232). -/
def execJzRel8 (d8 : Byte) (s : State) : Result := jumpIf (!truthy s.a) 2 (rel8Target s.params.rel8 s.pc d8) s

/-- JNZ_REL8 (R233). -/
def execJnzRel8 (d8 : Byte) (s : State) : Result := jumpIf (truthy s.a) 2 (rel8Target s.params.rel8 s.pc d8) s

/-- JMP_ABS (R234). -/
def execJmpAbs (a16 : Word) (s : State) : Result := jumpIf true 3 a16 s

/-- JZ_ABS (R235). -/
def execJzAbs (a16 : Word) (s : State) : Result := jumpIf (!truthy s.a) 3 a16 s

/-- JNZ_ABS (R236). -/
def execJnzAbs (a16 : Word) (s : State) : Result := jumpIf (truthy s.a) 3 a16 s

/-- The word of the jump table at `T = opaddr + 7` that the selector picks, all arithmetic modulo 2^16 (R237). -/
def tableTarget (s : State) (low16 : Word) : Word := s.readWord (s.pc + 7 + 2 * (s.a - low16))

/-- SWITCHRANGE: under the literal variant the default is always overwritten by the table read (R237); under the
intended one a selector outside the signed range goes to the default (R238, decision D15). -/
def execSwitchrange (low16 high16 default16 : Word) (s : State) : Result :=
  match s.params.switchRange with
  | .literal => .next (s.setPc (tableTarget s low16))
  | .intended =>
    if s16 s.a < s16 low16 ∨ s16 s.a > s16 high16 then .next (s.setPc default16)
    else .next (s.setPc (tableTarget s low16))

/-- The target of the first pair whose value is the selector, else the default (R239). -/
def switchTarget (sel default16 : Word) : List (Word × Word) → Word
  | [] => default16
  | (v, t) :: ps => if sel = v then t else switchTarget sel default16 ps

/-- SWITCHLIST (R239; assumption log 10 on the pairs after a match). -/
def execSwitchlist (pairs : List (Word × Word)) (default16 : Word) (s : State) : Result :=
  .next (s.setPc (switchTarget s.a default16 pairs))

end Sys2Proof.Machine
end

