-- ==== Sys2Proof/Machine/IoBlock.lean ====
section
/-! DEFINITION. The I/O port and the block memory instructions (spec/45_io_block.md R260 to R266). -/

namespace Sys2Proof.Machine

/-- IN: on port 0 the host's answer goes to A and `In(opaddr)` is emitted; a host that never answers leaves the step
unfinished; any other port changes nothing but PC (R260, decision D16). -/
def execPortIn (port8 : Byte) (s : State) : Result :=
  if port8 = 0x00 then
    match (s.advance 2).drawInput with
    | some (v, t) => .next ((t.setA v).emit (.input s.pc))
    | none => .fault .hostSilent
  else .next (s.advance 2)

/-- OUT: on port 0 the host receives A's low byte; any other port changes nothing but PC (R261, decision D16). -/
def execPortOut (port8 : Byte) (s : State) : Result :=
  if port8 = 0x00 then .next ((s.advance 2).emit (.output (lowByte s.a))) else .next (s.advance 2)

/-- BCOPY, from the block at B to the block at A (R264). -/
def execBcopy (count16 : Word) (s : State) : Result :=
  .next ((s.advance 3).setMem (s.mem.copy s.a s.b count16.toNat))

/-- BFILL, the block at A with B's low byte (R265). -/
def execBfill (count16 : Word) (s : State) : Result :=
  .next ((s.advance 3).setMem (s.mem.fill s.a (lowByte s.b) count16.toNat))

/-- BCMP, the blocks at A and B (R266). -/
def execBcmp (count16 : Word) (s : State) : Result :=
  .next ((s.advance 3).setA (bool16 (s.mem.equalBlocks s.a s.b count16.toNat)))

end Sys2Proof.Machine
end

