-- ==== Sys2Proof/Machine/LoadStore.lean ====
section
/-! DEFINITION. Loads, stores and immediate loads of tier 2 (spec/41_load_store.md R120 to R144). -/

namespace Sys2Proof.Machine

/-! ## Shared: an access of an instruction of `len` bytes at an effective address -/

/-- `A <- MemRead(ea, 2)`. -/
def loadWordA (len : Nat) (ea : Word) (s : State) : Result := .next ((s.advance len).setA (s.readWord ea))

/-- `B <- MemRead(ea, 2)`. -/
def loadWordB (len : Nat) (ea : Word) (s : State) : Result := .next ((s.advance len).setB (s.readWord ea))

/-- `MemWrite(ea, 2, A)`. -/
def storeWordA (len : Nat) (ea : Word) (s : State) : Result := .next ((s.advance len).writeWord ea s.a)

/-- `A <- zext_16(MemRead(ea, 1))` (decision D10). -/
def loadByteA (len : Nat) (ea : Word) (s : State) : Result := .next ((s.advance len).setA (zext16 (s.readByte ea)))

/-- `MemWrite(ea, 1, A[7:0])` (decision D10). -/
def storeByteA (len : Nat) (ea : Word) (s : State) : Result := .next ((s.advance len).writeByte ea (lowByte s.a))

/-! ## Near, far and absolute -/

/-- LDA_NEAR (R120). -/
def execLdaNear (d8 : Byte) (s : State) : Result := loadWordA 2 (nearAddr s.fp d8) s

/-- LDA_FAR (R121). -/
def execLdaFar (d16 : Word) (s : State) : Result := loadWordA 3 (farAddr s.fp d16) s

/-- LDA_ABS (R122). -/
def execLdaAbs (a16 : Word) (s : State) : Result := loadWordA 3 (absAddr a16) s

/-- LDB_NEAR (R123). -/
def execLdbNear (d8 : Byte) (s : State) : Result := loadWordB 2 (nearAddr s.fp d8) s

/-- LDB_FAR (R124). -/
def execLdbFar (d16 : Word) (s : State) : Result := loadWordB 3 (farAddr s.fp d16) s

/-- LDB_ABS (R125). -/
def execLdbAbs (a16 : Word) (s : State) : Result := loadWordB 3 (absAddr a16) s

/-- STA_NEAR (R126). -/
def execStaNear (d8 : Byte) (s : State) : Result := storeWordA 2 (nearAddr s.fp d8) s

/-- STA_FAR (R127). -/
def execStaFar (d16 : Word) (s : State) : Result := storeWordA 3 (farAddr s.fp d16) s

/-- STA_ABS (R128). -/
def execStaAbs (a16 : Word) (s : State) : Result := storeWordA 3 (absAddr a16) s

/-- LDAB_NEAR (R129). -/
def execLdabNear (d8 : Byte) (s : State) : Result := loadByteA 2 (nearAddr s.fp d8) s

/-- LDAB_FAR (R130). -/
def execLdabFar (d16 : Word) (s : State) : Result := loadByteA 3 (farAddr s.fp d16) s

/-- LDAB_ABS (R131). -/
def execLdabAbs (a16 : Word) (s : State) : Result := loadByteA 3 (absAddr a16) s

/-- STAB_NEAR (R132). -/
def execStabNear (d8 : Byte) (s : State) : Result := storeByteA 2 (nearAddr s.fp d8) s

/-- STAB_FAR (R133). -/
def execStabFar (d16 : Word) (s : State) : Result := storeByteA 3 (farAddr s.fp d16) s

/-- STAB_ABS (R134). -/
def execStabAbs (a16 : Word) (s : State) : Result := storeByteA 3 (absAddr a16) s

/-! ## Immediates -/

/-- LDA_S8 (R135). -/
def execLdaS8 (imm8 : Byte) (s : State) : Result := .next ((s.advance 2).setA (sext16 imm8))

/-- LDA_U8 (R136). -/
def execLdaU8 (imm8 : Byte) (s : State) : Result := .next ((s.advance 2).setA (zext16 imm8))

/-- LDA_I16 (R137). -/
def execLdaI16 (imm16 : Word) (s : State) : Result := .next ((s.advance 3).setA imm16)

/-- LDB_S8 (R138). -/
def execLdbS8 (imm8 : Byte) (s : State) : Result := .next ((s.advance 2).setB (sext16 imm8))

/-- LDB_U8 (R139). -/
def execLdbU8 (imm8 : Byte) (s : State) : Result := .next ((s.advance 2).setB (zext16 imm8))

/-- LDB_I16 (R140). -/
def execLdbI16 (imm16 : Word) (s : State) : Result := .next ((s.advance 3).setB imm16)

/-! ## Indirect access through A (decision D11) -/

/-- DEREF (R141). -/
def execDeref (s : State) : Result := loadWordA 1 s.a s

/-- DEREFB (R142). -/
def execDerefb (s : State) : Result := loadByteA 1 s.a s

/-- POPSTORE: the pop is before the write (R143). -/
def execPopstore (s : State) : Result := .next ((s.advance 1).drop.writeWord s.a s.top)

/-- POPSTOREB: a whole word is popped, its low byte stored (R144). -/
def execPopstoreb (s : State) : Result := .next ((s.advance 1).drop.writeByte s.a (lowByte s.top))

end Sys2Proof.Machine
end

