-- ==== Sys2Proof/Machine/Nibble.lean ====
section
/-! DEFINITION. Tier 1, the nibble-block instructions (spec/40_nibble_block.md R100 to R107). Here and in every meaning,
PC of the given state is `opaddr`, the address of the opcode byte, and the meaning leaves it past the operand bytes. -/

namespace Sys2Proof.Machine

/-- LDA_FAST (R100). -/
def execLdaFast (n : Nibble) (s : State) : Result :=
  .next ((s.advance 1).setA (s.readWord (fastAddr s.fp n)))

/-- LDB_FAST (R101). -/
def execLdbFast (n : Nibble) (s : State) : Result :=
  .next ((s.advance 1).setB (s.readWord (fastAddr s.fp n)))

/-- PUSH_FAST: the slot is read before the push writes (R102). -/
def execPushFast (n : Nibble) (s : State) : Result :=
  .next ((s.advance 1).push (s.readWord (fastAddr s.fp n)))

/-- STA_FAST (R103). -/
def execStaFast (n : Nibble) (s : State) : Result :=
  .next ((s.advance 1).writeWord (fastAddr s.fp n) s.a)

/-- LDA_I4 (R104). -/
def execLdaI4 (n : Nibble) (s : State) : Result :=
  .next ((s.advance 1).setA (zextNibble n))

/-- LDB_I4 (R105). -/
def execLdbI4 (n : Nibble) (s : State) : Result :=
  .next ((s.advance 1).setB (zextNibble n))

/-- PUSH_I4 (R106). -/
def execPushI4 (n : Nibble) (s : State) : Result :=
  .next ((s.advance 1).push (zextNibble n))

/-- ADD_I4, modulo 2^16 (R107). -/
def execAddI4 (n : Nibble) (s : State) : Result :=
  .next ((s.advance 1).setA (s.a + zextNibble n))

end Sys2Proof.Machine
end

