-- ==== Sys2Proof/Machine/Reserved.lean ====
section
/-! DEFINITION. The reserved no-op codes and the illegal opcode (spec/47_reserved_illegal.md R300, R301). -/

namespace Sys2Proof.Machine

/-- NOP: nothing but the fetch's PC advance; no event (R300). Both codes act alike. -/
def execNop (_op : Byte) (s : State) : Result := .next (s.advance 1)

/-- ILLEGAL: the diagnostic, no operand byte consumed, the engine goes on (R301, R312). -/
def execIllegal (op : Byte) (s : State) : Result := .next ((s.advance 1).reportIllegal op s.pc)

end Sys2Proof.Machine
end

