-- ==== Sys2Proof/Machine/Stack.lean ====
section
/-! DEFINITION. Stack, stack-pointer and call instructions (spec/42_stack_calls.md R150 to R163). -/

namespace Sys2Proof.Machine

/-- PUSHA (R150). -/
def execPusha (s : State) : Result := .next ((s.advance 1).push s.a)

/-- PUSHB (R151). -/
def execPushb (s : State) : Result := .next ((s.advance 1).push s.b)

/-- POPA (R152). -/
def execPopa (s : State) : Result := .next ((s.advance 1).drop.setA s.top)

/-- POPB (R153). -/
def execPopb (s : State) : Result := .next ((s.advance 1).drop.setB s.top)

/-- GETSP (R154). -/
def execGetsp (s : State) : Result := .next ((s.advance 1).setA s.sp)

/-- SETSP (R155). -/
def execSetsp (s : State) : Result := .next ((s.advance 1).setSp s.a)

/-- ALLOCZ: `count8` zero bytes from SP down, then SP below them (R156). -/
def execAllocz (count8 : Byte) (s : State) : Result :=
  .next (((s.advance 2).setMem (s.mem.zeroDown s.sp count8.toNat)).setSp (s.sp - zext16 count8))

/-- CALL: the return address is past the operands (R160). -/
def execCall (a16 : Word) (s : State) : Result := .next ((s.advance 3).call a16)

/-- CALLALLOC: a call, then `alloc8` bytes reserved and not written (R161). -/
def execCallalloc (a16 : Word) (alloc8 : Byte) (s : State) : Result :=
  let s := (s.advance 4).call a16
  .next (s.setSp (s.sp - zext16 alloc8))

/-- CALLA: a call to the address in A (R162). -/
def execCalla (s : State) : Result := .next ((s.advance 1).call s.a)

/-- RET (R163). -/
def execRet (s : State) : Result := .next (s.advance 1).ret

end Sys2Proof.Machine
end

