-- ==== Sys2Proof/Machine/Dispatch.lean ====
section
/-! DEFINITION. One arm per instruction: its meaning (spec/30_encoding.md R63). -/

namespace Sys2Proof.Machine

def exec (i : Instr) (s : State) : Host.Outcome State Fault Refusal :=
  match i with
  | .ldaFast n => Sys2Proof.Machine.execLdaFast n s
  | .ldbFast n => Sys2Proof.Machine.execLdbFast n s
  | .pushFast n => Sys2Proof.Machine.execPushFast n s
  | .staFast n => Sys2Proof.Machine.execStaFast n s
  | .ldaI4 n => Sys2Proof.Machine.execLdaI4 n s
  | .ldbI4 n => Sys2Proof.Machine.execLdbI4 n s
  | .pushI4 n => Sys2Proof.Machine.execPushI4 n s
  | .addI4 n => Sys2Proof.Machine.execAddI4 n s
  | .ldaNear d8 => Sys2Proof.Machine.execLdaNear d8 s
  | .ldaFar d16 => Sys2Proof.Machine.execLdaFar d16 s
  | .ldaAbs a16 => Sys2Proof.Machine.execLdaAbs a16 s
  | .ldbNear d8 => Sys2Proof.Machine.execLdbNear d8 s
  | .ldbFar d16 => Sys2Proof.Machine.execLdbFar d16 s
  | .ldbAbs a16 => Sys2Proof.Machine.execLdbAbs a16 s
  | .staNear d8 => Sys2Proof.Machine.execStaNear d8 s
  | .staFar d16 => Sys2Proof.Machine.execStaFar d16 s
  | .staAbs a16 => Sys2Proof.Machine.execStaAbs a16 s
  | .ldabNear d8 => Sys2Proof.Machine.execLdabNear d8 s
  | .ldabFar d16 => Sys2Proof.Machine.execLdabFar d16 s
  | .ldabAbs a16 => Sys2Proof.Machine.execLdabAbs a16 s
  | .stabNear d8 => Sys2Proof.Machine.execStabNear d8 s
  | .stabFar d16 => Sys2Proof.Machine.execStabFar d16 s
  | .stabAbs a16 => Sys2Proof.Machine.execStabAbs a16 s
  | .nop op => Sys2Proof.Machine.execNop op s
  | .illegal op => Sys2Proof.Machine.execIllegal op s
  | .ldaS8 imm8 => Sys2Proof.Machine.execLdaS8 imm8 s
  | .ldaU8 imm8 => Sys2Proof.Machine.execLdaU8 imm8 s
  | .ldaI16 imm16 => Sys2Proof.Machine.execLdaI16 imm16 s
  | .ldbS8 imm8 => Sys2Proof.Machine.execLdbS8 imm8 s
  | .ldbU8 imm8 => Sys2Proof.Machine.execLdbU8 imm8 s
  | .ldbI16 imm16 => Sys2Proof.Machine.execLdbI16 imm16 s
  | .deref => Sys2Proof.Machine.execDeref s
  | .derefb => Sys2Proof.Machine.execDerefb s
  | .popstore => Sys2Proof.Machine.execPopstore s
  | .popstoreb => Sys2Proof.Machine.execPopstoreb s
  | .pusha => Sys2Proof.Machine.execPusha s
  | .pushb => Sys2Proof.Machine.execPushb s
  | .popa => Sys2Proof.Machine.execPopa s
  | .popb => Sys2Proof.Machine.execPopb s
  | .getsp => Sys2Proof.Machine.execGetsp s
  | .setsp => Sys2Proof.Machine.execSetsp s
  | .allocz count8 => Sys2Proof.Machine.execAllocz count8 s
  | .call a16 => Sys2Proof.Machine.execCall a16 s
  | .callalloc a16 alloc8 => Sys2Proof.Machine.execCallalloc a16 alloc8 s
  | .calla => Sys2Proof.Machine.execCalla s
  | .ret => Sys2Proof.Machine.execRet s
  | .add => Sys2Proof.Machine.execAdd s
  | .sub => Sys2Proof.Machine.execSub s
  | .rsub => Sys2Proof.Machine.execRsub s
  | .mul => Sys2Proof.Machine.execMul s
  | .divu => Sys2Proof.Machine.execDivu s
  | .divs => Sys2Proof.Machine.execDivs s
  | .modu => Sys2Proof.Machine.execModu s
  | .mods => Sys2Proof.Machine.execMods s
  | .neg => Sys2Proof.Machine.execNeg s
  | .not => Sys2Proof.Machine.execNot s
  | .and => Sys2Proof.Machine.execAnd s
  | .or => Sys2Proof.Machine.execOr s
  | .xor => Sys2Proof.Machine.execXor s
  | .shl => Sys2Proof.Machine.execShl s
  | .shr => Sys2Proof.Machine.execShr s
  | .asr => Sys2Proof.Machine.execAsr s
  | .eq => Sys2Proof.Machine.execEq s
  | .ne => Sys2Proof.Machine.execNe s
  | .ult => Sys2Proof.Machine.execUlt s
  | .ule => Sys2Proof.Machine.execUle s
  | .ugt => Sys2Proof.Machine.execUgt s
  | .uge => Sys2Proof.Machine.execUge s
  | .slt => Sys2Proof.Machine.execSlt s
  | .sle => Sys2Proof.Machine.execSle s
  | .sgt => Sys2Proof.Machine.execSgt s
  | .sge => Sys2Proof.Machine.execSge s
  | .sxa => Sys2Proof.Machine.execSxa s
  | .zxa => Sys2Proof.Machine.execZxa s
  | .sxb => Sys2Proof.Machine.execSxb s
  | .zxb => Sys2Proof.Machine.execZxb s
  | .sloadbf start wm1 => Sys2Proof.Machine.execSloadbf start wm1 s
  | .uloadbf start wm1 => Sys2Proof.Machine.execUloadbf start wm1 s
  | .storebf start wm1 => Sys2Proof.Machine.execStorebf start wm1 s
  | .dcount mode step index => Sys2Proof.Machine.execDcount mode step index s
  | .bcopy count16 => Sys2Proof.Machine.execBcopy count16 s
  | .bfill count16 => Sys2Proof.Machine.execBfill count16 s
  | .bcmp count16 => Sys2Proof.Machine.execBcmp count16 s
  | .portIn port8 => Sys2Proof.Machine.execPortIn port8 s
  | .portOut port8 => Sys2Proof.Machine.execPortOut port8 s
  | .switchrange low16 high16 default16 => Sys2Proof.Machine.execSwitchrange low16 high16 default16 s
  | .switchlist pairs default16 => Sys2Proof.Machine.execSwitchlist pairs default16 s
  | .jmpAbs a16 => Sys2Proof.Machine.execJmpAbs a16 s
  | .jzAbs a16 => Sys2Proof.Machine.execJzAbs a16 s
  | .jnzAbs a16 => Sys2Proof.Machine.execJnzAbs a16 s
  | .jmpRel8 d8 => Sys2Proof.Machine.execJmpRel8 d8 s
  | .jzRel8 d8 => Sys2Proof.Machine.execJzRel8 d8 s
  | .jnzRel8 d8 => Sys2Proof.Machine.execJnzRel8 d8 s

end Sys2Proof.Machine
end

