-- ==== Sys2Proof/Machine/Fetch.lean ====
section
/-! DEFINITION. Fetching: the bytes at PC, read from the same memory as data (spec/30_encoding.md R61, R62;
spec/20_memory.md R59), and the placing of bytes there for the host. -/

namespace Sys2Proof.Machine

/-- The bytes the fetch can see: from PC up, modulo 2^16, as many as the longest instruction has (R61). -/
def State.fetchWindow (s : State) : List Byte := s.bytesFrom s.pc maxLength

/-- The instruction at PC under the bound `OPMAP`, decoded fresh every step (R31, R60). -/
def State.fetch (s : State) : Except DecodeError (Instr × List Byte) := decode s.params.opmap s.fetchWindow

/-- The memory with the `n` cells from `addr` up, modulo 2^16, unlisted, so that they read as `unlistedByte`. -/
def Memory.clear (m : Memory) (addr : Word) (n : Nat) : Memory :=
  m.filter (fun c => decide ((BitVec.ofNat 16 c.1 - addr).toNat ≥ n))

/-- The memory with bytes written from `addr` up. -/
def Memory.place (m : Memory) (addr : Word) : List Byte → Memory
  | [] => m
  | v :: vs => place (m.write addr v) (addr + 1) vs

/-- `s` with the bytes at PC, zeros after them up to the longest instruction, and the engine Running. -/
def State.placeAtPc (s : State) (bytes : List Byte) : State :=
  (s.setMem ((s.mem.clear s.pc maxLength).place s.pc bytes)).setStatus .running

end Sys2Proof.Machine
end

