-- ==== Sys2Proof/Machine/Step.lean ====
section
/-! DEFINITION. One step of the engine executes exactly one instruction (spec/30_encoding.md R63). -/

namespace Sys2Proof.Machine

/-- `Step()` (R63): a Faulted engine has none; a Running one tells the trace hook, then runs the instruction whose
bytes stand at PC. -/
def step (s : State) : Host.Outcome State Fault Refusal :=
  match s.status with
  | .faulted f => .fault (.engineFaulted f)
  | .running =>
    match s.fetch with
    | .ok (i, _) => exec i s.trace
    | .error _ => .refused .undecodable

/-- `s` with a table word's instruction where the next step fetches, the engine Running, and `OPMAP` bound to the map
that the table's words are written in (assumption log 9). -/
def State.withFetchWord (s : State) (nbits w : Nat) : State :=
  (s.placeAtPc (tableBytes nbits w)).setParams { s.params with opmap := defaultOpmap }

end Sys2Proof.Machine
end

