-- ==== Sys2Proof/Safety.lean ====
section
/-! DEFINITION. The terms that claims about the machine are stated in: how an instruction completes, the invariant of
every step, which instructions may change what, and when the host answers. -/

namespace Sys2Proof.Machine

/-- The cells after a byte `v` is stored at `x`, over cells that read `rd` (R42). -/
def storedByte (rd : Word → Byte) (x : Word) (v : Byte) : Word → Byte :=
  fun y => if y = x then v else rd y

/-- The cells after a word `v` is stored at `x`, over cells that read `rd`: low byte at `x`, high byte at `x + 1`
modulo 2^16 (R42). -/
def storedWord (rd : Word → Byte) (x v : Word) : Word → Byte :=
  storedByte (storedByte rd x (lowByte v)) (x + 1) (highByte v)

/-- The little-endian word at `x` of cells that read `rd` (R41). -/
def wordOf (rd : Word → Byte) (x : Word) : Word := joinBytes (rd x) (rd (x + 1))

/-- `exec i s` COMPLETES: it answers a next state that agrees with `e` in every field but the memory list, and every
cell `x` of which reads `rd x`. Taking `e` as an update of `s` and `rd` as an update of `s.readByte` says the whole
effect of the instruction and its whole frame. -/
def Completes (i : Instr) (s e : State) (rd : Word → Byte) : Prop :=
  ∃ t, exec i s = .next t ∧ { t with mem := e.mem } = e ∧ ∀ x, t.readByte x = rd x

/-- The host has an answer for the next `IN` on port 0 (R260, R321). -/
def State.hostAnswers (s : State) : Prop := s.input.head? ≠ some .silent

/-- The kinds that can raise DivideByZero (R311). -/
def isDivideKind : Config.OpKind → Bool
  | .divu | .divs | .modu | .mods => true
  | _ => false

/-- What every step keeps: the memory is in its canonical form; the bound `OPMAP` is admissible (R7); and a Faulted engine
holds the record R313 describes: the opcode byte of a divide, read at the address recorded, PC just past it, and the
Fault event as the last one the host received. -/
structure State.Inv (s : State) : Prop where
  memory : s.mem.wf
  opmap : opmapWf s.params.opmap
  record : ∀ opaddr op, s.status = .faulted (.divideByZero opaddr op) →
    (op.msb = true ∧ isDivideKind (kindAt s.params.opmap op) = true) ∧ op = s.readByte opaddr ∧ s.pc = opaddr + 1 ∧
      s.events.getLast? = some (.fault (.divideByZero opaddr op))

end Sys2Proof.Machine

namespace Sys2Proof

/-- The instruction is a call or the return: the only ones that write FP (R24). -/
def Instr.isCallOrReturn : Instr → Bool
  | .call _ | .callalloc _ _ | .calla | .ret => true
  | _ => false

/-- The instruction may send PC elsewhere than past its operands: calls, return, jumps and switches (R25). -/
def Instr.isTransfer : Instr → Bool
  | .call _ | .callalloc _ _ | .calla | .ret => true
  | .jmpAbs _ | .jzAbs _ | .jnzAbs _ | .jmpRel8 _ | .jzRel8 _ | .jnzRel8 _ => true
  | .switchrange _ _ _ | .switchlist _ _ => true
  | _ => false

/-- The instruction has a form that writes memory: stores, pushes, calls, allocation, block copy and fill, DCOUNT. -/
def Instr.mayStore : Instr → Bool
  | .pushFast _ | .staFast _ | .pushI4 _ => true
  | .staNear _ | .staFar _ | .staAbs _ | .stabNear _ | .stabFar _ | .stabAbs _ => true
  | .popstore | .popstoreb | .pusha | .pushb | .allocz _ | .call _ | .callalloc _ _ | .calla => true
  | .bcopy _ | .bfill _ | .dcount _ _ _ => true
  | _ => false

/-- The instruction writes SP: pushes, pops, SETSP, ALLOCZ, calls and return (R23). -/
def Instr.mayWriteSp : Instr → Bool
  | .pushFast _ | .pushI4 _ | .pusha | .pushb | .popa | .popb | .popstore | .popstoreb => true
  | .setsp | .allocz _ | .call _ | .callalloc _ _ | .calla | .ret => true
  | _ => false

/-- The instruction writes B: loads into B, POPB, SXB, ZXB and STOREBF (R22). -/
def Instr.mayWriteB : Instr → Bool
  | .ldbFast _ | .ldbI4 _ | .ldbNear _ | .ldbFar _ | .ldbAbs _ | .ldbS8 _ | .ldbU8 _ | .ldbI16 _ => true
  | .popb | .sxb | .zxb | .storebf _ _ => true
  | _ => false

/-- The instruction is one of the four divides (R184 to R187). -/
def Instr.isDivide : Instr → Bool
  | .divu | .divs | .modu | .mods => true
  | _ => false

end Sys2Proof
end

