-- ==== Sys2Proof/Certificates/Slice0/Obligations.lean ====
section
/-! DEFINITION. The statements for the provers, one `def Obligations.<Name> : Prop` each; OBLIGATIONS.json lists them
with the rules they rest on. `Completes i s e rd` (Safety.lean) says that `exec i s` answers a next state, what every
field of it is, and what every cell of its memory reads. -/

open Sys2Proof Sys2Proof.Machine

/-! ## Reset -/

/-- R32, with INIT_MEM and the image as arguments: every register, the status and every cell after the host's reset;
what belongs to the host is not touched. -/
def Obligations.HostResetEstablishesState : Prop :=
  ∀ (s : State) (initMem : Word → Byte) (image : List Byte),
    let t := s.hostReset initMem image
    t.a = 0x0000 ∧ t.b = 0x0000 ∧ t.sp = 0xFFFF ∧ t.fp = 0xFFFF ∧ t.pc = 0x0000 ∧ t.status = .running ∧
    (∀ (x : Word) (h : x.toNat < image.length), t.readByte x = image[x.toNat]) ∧
    (∀ x : Word, image.length ≤ x.toNat →
      t.readByte x = if x = 0 then 0xD9 else if x = 1 then 0x01 else initMem x) ∧
    t.mem.wf ∧ t.input = s.input ∧ t.inputDraws = s.inputDraws ∧ t.events = s.events ∧ t.params = s.params

/-- `State.reset` is what the host's reset leaves of any state with no image and the default INIT_MEM, but for the
host's own fields and the bindings, which `State.reset` sets to the values of assumption log 3, 6 and 8. The
default INIT_MEM is the model's choice of assumption log 2. -/
def Obligations.ResetIsHostResetWithoutImage : Prop :=
  ∀ s : State,
    { s.hostReset (fun _ => 0x00) [] with
      input := [], inputDraws := 0, events := [], params := Config.defaultParams } = State.reset

/-- The invariant of every step holds after reset; the default `OPMAP` (assumption log 1) is an admissible one. -/
def Obligations.ResetMeetsInvariant : Prop := State.reset.Inv

/-! ## The step, fetch and decode -/

/-- R63: a Faulted engine has no step (the model's fault `engineFaulted`, assumption log 11; the status is the spec's own
choice D7); a Running one emits the Trace snapshot (the hook R322 calls optional is always invoked, assumption log 8;
the moment is the spec's own choice D36) and runs the instruction decoded under the bound `OPMAP`. -/
def Obligations.StepRunsDecodedInstruction : Prop :=
  (∀ (s : State) (f : EngineFault), s.status = .faulted f → step s = .fault (.engineFaulted f)) ∧
  (∀ (s : State) (i : Instr) (rest : List Byte), s.status = .running →
    decode s.params.opmap s.fetchWindow = .ok (i, rest) →
    step s = exec i { s with events := s.events ++ [.trace s.a s.b s.pc s.sp s.fp] })

/-- When the bytes at PC, read modulo 2^16, are the encoding of a well-formed instruction under the bound `OPMAP`, any
admissible one, the step runs it (R7, R59, R61, R63), after the trace event, which the model always emits (assumption
log 8; the spec's own choice D36). -/
def Obligations.StepRunsInstructionAtPc : Prop :=
  ∀ (s : State) (i : Instr), opmapWf s.params.opmap → i.wellFormed s.params.opmap = true → s.status = .running →
    s.bytesFrom s.pc (encode s.params.opmap i).length = encode s.params.opmap i →
    step s = exec i { s with events := s.events ++ [.trace s.a s.b s.pc s.sp s.fp] }

/-- Whatever memory holds and whatever is bound, a Running engine whose host answers has a next state: no byte is
undecodable and no access, no arithmetic and no opcode stops it. The premise that the host answers rests on assumption
log 7 (a silent host leaves IN without a next state), a divide by zero as a next state on assumption log 11. -/
def Obligations.RunningEngineAlwaysSteps : Prop :=
  ∀ s : State, s.status = .running → s.hostAnswers → ∃ t, step s = .next t

/-- The step keeps the invariant: canonical memory, an admissible `OPMAP`, and the record a Faulted engine holds (a Faulted
state as a next state: assumption log 11; the host's record as a list in State: assumption log 8). -/
def Obligations.StepKeepsInvariant : Prop :=
  ∀ s t : State, s.Inv → step s = .next t → t.Inv

/-- A step tells the host the snapshot of its start and then at most one thing more; what was told before stays. That every
step tells the snapshot is the model's choice (assumption log 8: the hook R322 calls optional is always invoked); that it
is taken at the start of the step is the spec's own choice D36. At most one other event: R311, R314. -/
def Obligations.StepTellsTraceThenAtMostOneEvent : Prop :=
  ∀ s t : State, step s = .next t →
    t.events = s.events ++ [.trace s.a s.b s.pc s.sp s.fp] ∨
    ∃ e, t.events = s.events ++ [.trace s.a s.b s.pc s.sp s.fp, e] ∧ ∀ a b pc sp fp, e ≠ .trace a b pc sp fp

/-- Under every admissible `OPMAP` every opcode byte decodes, whatever follows it, to a well-formed instruction whose
encoding begins with it (R69). -/
def Obligations.DecoderIsTotal : Prop :=
  ∀ (m : Config.OpMap) (op : Byte) (bs : List Byte), opmapWf m → maxLength ≤ bs.length + 1 →
    ∃ i rest, decode m (op :: bs) = .ok (i, rest) ∧ i.wellFormed m = true ∧ (encode m i).head? = some op

/-- Under every admissible `OPMAP` (R7), decode reads an encoded well-formed instruction back, every operand at every value,
and leaves the bytes after it. The tier-1 order (D2) and the operand layout (D3, D4, D14, D20) are the spec's own choices. -/
def Obligations.DecodeInvertsEncode : Prop :=
  ∀ (m : Config.OpMap) (i : Instr) (rest : List Byte), opmapWf m → i.wellFormed m = true →
    decode m (encode m i ++ rest) = .ok (i, rest)

/-- Under every admissible `OPMAP` (R7), what decode reads is well formed, and its encoding is exactly the bytes
consumed. The tier-1 order (D2) and the operand layout (D3, D4, D14, D20) are the spec's own choices. -/
def Obligations.EncodeInvertsDecode : Prop :=
  ∀ (m : Config.OpMap) (bs : List Byte) (i : Instr) (rest : List Byte), opmapWf m → decode m bs = .ok (i, rest) →
    i.wellFormed m = true ∧ bs = encode m i ++ rest

/-- R63 under any table whatever: a byte of 0x80 to 0xFF that `OPMAP` maps to ReservedNop or to Illegal is that one-byte
instruction (which codes those are in the default map is the spec's own choice D22), and a byte below 0x80 decodes alike
under every binding. The last clause is the model's choice (assumption log 1): the tier-1 block order is no part of the binding, as R7
names the tier-2 bytes alone, while D2, the spec's own choice of that order, counts the blocks as part of `OPMAP`'s
sphere. -/
def Obligations.OpmapDecidesReservedAndIllegal : Prop :=
  ∀ (m : Config.OpMap) (op : Byte) (rest : List Byte),
    (op.msb = true → kindAt m op = .reservedNop → decode m (op :: rest) = .ok (.nop op, rest)) ∧
    (op.msb = true → kindAt m op = .illegal → decode m (op :: rest) = .ok (.illegal op, rest)) ∧
    (op.msb = false → ∀ m' : Config.OpMap, decode m' (op :: rest) = decode m (op :: rest))

/-- Ten words decode, under the default `OPMAP` (assumption log 1; the spec's own choices D1 to D3), to the instruction they
stand for: one of tier 1, one illegal code, one of format OP, five of OP_B8, one of OP_W16 and one of OP_W16_B8, none of
OP_SWR or OP_SWL. The spec's own choices besides: low byte first (D4), DCOUNT's fields (D20), 0xE0 illegal (D22). -/
def Obligations.WrittenWordsDecode : Prop :=
  decode defaultOpmap [0x0B] = .ok (.ldaFast 11, []) ∧ decode defaultOpmap [0x80, 0xFC] = .ok (.ldaNear 0xFC, []) ∧
  decode defaultOpmap [0x88, 0x34, 0x12] = .ok (.staAbs 0x1234, []) ∧ decode defaultOpmap [0xA3] = .ok (.mul, []) ∧
  decode defaultOpmap [0xC1, 0x42] = .ok (.uloadbf 4 2, []) ∧
  decode defaultOpmap [0xC3, 0xFB] = .ok (.dcount .stpre .minus2 11, []) ∧
  decode defaultOpmap [0xC9, 0x00] = .ok (.portOut 0, []) ∧
  decode defaultOpmap [0xD1, 0x00, 0x01, 0x06] = .ok (.callalloc 0x0100 6, []) ∧
  decode defaultOpmap [0xD9, 0x01] = .ok (.jmpRel8 0x01, []) ∧ decode defaultOpmap [0xE0, 0x45] = .ok (.illegal 0xE0, [0x45])

/-- R70 and R300 (the spec's own choice D22) under the default `OPMAP`: the two reserved codes are
one-byte no-ops that change nothing but PC; the 43 illegal codes, and no others, decode to the one-byte illegal
opcode. -/
def Obligations.ReservedAndIllegalCodes : Prop :=
  (∀ rest, decode defaultOpmap (0x8F :: rest) = .ok (.nop 0x8F, rest)) ∧
  (∀ rest, decode defaultOpmap (0xFF :: rest) = .ok (.nop 0xFF, rest)) ∧
  (∀ (s : State) (op : Byte), Completes (.nop op) s { s with pc := s.pc + 1 } s.readByte) ∧
  (∀ (op : Byte) (rest : List Byte),
    (op.toNat = 0xBE ∨ op.toNat = 0xBF ∨ (0xCA ≤ op.toNat ∧ op.toNat ≤ 0xCF) ∨ (0xDC ≤ op.toNat ∧ op.toNat ≤ 0xFE)) ↔
      decode defaultOpmap (op :: rest) = .ok (.illegal op, rest))

/-- A byte stored just past STAB_ABS is the next opcode fetched: self-modifying code needs no synchronisation (R59,
R348). -/
def Obligations.StoreIsSeenByNextFetch : Prop :=
  ∀ (s t : State) (a16 : Word), a16 = s.pc + 3 → exec (.stabAbs a16) s = .next t →
    t.fetchWindow.head? = some (lowByte s.a)

/-! ## Memory, stack and addressing -/

/-- R41 and R42: a byte read is the cell, a word read is little-endian and wraps; a write changes its one or two cells,
the second modulo 2^16, and no other cell and no register. -/
def Obligations.MemoryReadsAndWrites : Prop :=
  ∀ (s : State) (x y v : Word) (w : Byte),
    s.readByte x = s.mem.read x ∧
    s.readWord x = (s.readByte x).zeroExtend 16 ||| ((s.readByte (x + 1)).zeroExtend 16 <<< 8) ∧
    (s.writeByte x w).readByte y = (if y = x then w else s.readByte y) ∧
    (s.writeWord x v).readByte y =
      (if y = x then v.extractLsb' 0 8 else if y = x + 1 then v.extractLsb' 8 8 else s.readByte y) ∧
    { s.writeByte x w with mem := s.mem } = s ∧ { s.writeWord x v with mem := s.mem } = s

/-- R46 and R47: what a push stores and where SP goes; what a pop returns and where SP goes (the placement of the bytes is
the spec's own choice D12). -/
def Obligations.PushStoresAndPopReads : Prop :=
  ∀ s : State,
    (∀ v y : Word, (s.push v).sp = s.sp - 2 ∧
      (s.push v).readByte y =
        (if y = s.sp - 1 then v.extractLsb' 0 8 else if y = s.sp then v.extractLsb' 8 8 else s.readByte y) ∧
      { s.push v with mem := s.mem, sp := s.sp } = s) ∧
    s.top = joinBytes (s.readByte (s.sp + 1)) (s.readByte (s.sp + 2)) ∧ s.drop = { s with sp := s.sp + 2 }

/-- R48 (derived by the spec from R46 and R47): a pop after a push returns the pushed word and leaves SP as it was, at
every SP. -/
def Obligations.PopReturnsPushedWord : Prop :=
  ∀ (s : State) (v : Word), (s.push v).top = v ∧ (s.push v).drop.sp = s.sp

/-- R56: what a return restores, and that a return at once after a call undoes it, for any registers. -/
def Obligations.ReturnUndoesCall : Prop :=
  ∀ s : State,
    s.ret = { s with sp := s.fp + 3, fp := s.readWord s.fp, pc := s.readWord (s.fp + 2) } ∧
    ∀ target, (s.call target).ret.pc = s.pc ∧ (s.call target).ret.fp = s.fp ∧ (s.call target).ret.sp = s.sp

/-- R51 to R54: the offset of every fast index; FP plus the signed byte; FP plus the word; the word itself. -/
def Obligations.AddressingModes : Prop :=
  ∀ (fp d16 a16 : Word) (d8 : Byte),
    (List.range 16).map (fun i => fastAddr fp (BitVec.ofNat 4 i)) =
      [fp - 24, fp - 22, fp - 20, fp - 18, fp - 16, fp - 14, fp - 12, fp - 10, fp - 8, fp - 6, fp - 4, fp - 2,
        fp + 4, fp + 6, fp + 8, fp + 10] ∧
    nearAddr fp d8 = BitVec.ofInt 16 ((fp.toNat : Int) + d8.toInt) ∧
    farAddr fp d16 = BitVec.ofInt 16 ((fp.toNat : Int) + d16.toInt) ∧ absAddr a16 = a16

/-! ## Tier 1 -/

/-- R104, R105, R107: the tier-1 instructions that put an immediate nibble, zero-extended, into a register. -/
def Obligations.NibbleImmediates : Prop :=
  ∀ (s : State) (n : Nibble),
    Completes (.ldaI4 n) s { s with a := BitVec.ofNat 16 n.toNat, pc := s.pc + 1 } s.readByte ∧
    Completes (.ldbI4 n) s { s with b := BitVec.ofNat 16 n.toNat, pc := s.pc + 1 } s.readByte ∧
    Completes (.addI4 n) s { s with a := s.a + BitVec.ofNat 16 n.toNat, pc := s.pc + 1 } s.readByte

/-- R100 to R103 and R106: the tier-1 instructions on a fast slot (word accesses are the spec's own choice D31) and the
push of an immediate (where a push puts its bytes is the spec's own choice D12); PUSH_FAST pushes what the slot held
before. -/
def Obligations.FastSlotAccessAndNibblePush : Prop :=
  ∀ (s : State) (n : Nibble),
    Completes (.ldaFast n) s { s with a := s.readWord (fastAddr s.fp n), pc := s.pc + 1 } s.readByte ∧
    Completes (.ldbFast n) s { s with b := s.readWord (fastAddr s.fp n), pc := s.pc + 1 } s.readByte ∧
    Completes (.pushFast n) s { s with sp := s.sp - 2, pc := s.pc + 1 }
      (storedWord s.readByte (s.sp - 1) (s.readWord (fastAddr s.fp n))) ∧
    Completes (.staFast n) s { s with pc := s.pc + 1 } (storedWord s.readByte (fastAddr s.fp n) s.a) ∧
    Completes (.pushI4 n) s { s with sp := s.sp - 2, pc := s.pc + 1 }
      (storedWord s.readByte (s.sp - 1) (BitVec.ofNat 16 n.toNat))

/-! ## Loads and stores -/

/-- R120 to R125: word loads into A and into B, near, far and absolute (which registers the forms use is the spec's own
choice D3). -/
def Obligations.WordLoads : Prop :=
  ∀ (s : State) (d8 : Byte) (w : Word),
    Completes (.ldaNear d8) s { s with a := s.readWord (s.fp + d8.signExtend 16), pc := s.pc + 2 } s.readByte ∧
    Completes (.ldaFar w) s { s with a := s.readWord (s.fp + w), pc := s.pc + 3 } s.readByte ∧
    Completes (.ldaAbs w) s { s with a := s.readWord w, pc := s.pc + 3 } s.readByte ∧
    Completes (.ldbNear d8) s { s with b := s.readWord (s.fp + d8.signExtend 16), pc := s.pc + 2 } s.readByte ∧
    Completes (.ldbFar w) s { s with b := s.readWord (s.fp + w), pc := s.pc + 3 } s.readByte ∧
    Completes (.ldbAbs w) s { s with b := s.readWord w, pc := s.pc + 3 } s.readByte

/-- R126 to R128: word stores of A (the register is the spec's own choice D3). -/
def Obligations.WordStores : Prop :=
  ∀ (s : State) (d8 : Byte) (w : Word),
    Completes (.staNear d8) s { s with pc := s.pc + 2 } (storedWord s.readByte (s.fp + d8.signExtend 16) s.a) ∧
    Completes (.staFar w) s { s with pc := s.pc + 3 } (storedWord s.readByte (s.fp + w) s.a) ∧
    Completes (.staAbs w) s { s with pc := s.pc + 3 } (storedWord s.readByte w s.a)

/-- R129 to R134 (the spec's own choice D10): byte loads clear A's high byte; byte stores write A's low byte to one
cell. -/
def Obligations.ByteLoadsAndStores : Prop :=
  ∀ (s : State) (d8 : Byte) (w : Word),
    Completes (.ldabNear d8) s
      { s with a := BitVec.ofNat 16 (s.readByte (s.fp + d8.signExtend 16)).toNat, pc := s.pc + 2 } s.readByte ∧
    Completes (.ldabFar w) s { s with a := BitVec.ofNat 16 (s.readByte (s.fp + w)).toNat, pc := s.pc + 3 } s.readByte ∧
    Completes (.ldabAbs w) s { s with a := BitVec.ofNat 16 (s.readByte w).toNat, pc := s.pc + 3 } s.readByte ∧
    Completes (.stabNear d8) s { s with pc := s.pc + 2 }
      (storedByte s.readByte (s.fp + d8.signExtend 16) (s.a.extractLsb' 0 8)) ∧
    Completes (.stabFar w) s { s with pc := s.pc + 3 }
      (storedByte s.readByte (s.fp + w) (s.a.extractLsb' 0 8)) ∧
    Completes (.stabAbs w) s { s with pc := s.pc + 3 } (storedByte s.readByte w (s.a.extractLsb' 0 8))

/-- R135 to R140: immediate loads, signed, raw and 16-bit (the registers are the spec's own choice D3). -/
def Obligations.ImmediateLoads : Prop :=
  ∀ (s : State) (v : Byte) (w : Word),
    Completes (.ldaS8 v) s { s with a := BitVec.ofInt 16 v.toInt, pc := s.pc + 2 } s.readByte ∧
    Completes (.ldaU8 v) s { s with a := BitVec.ofNat 16 v.toNat, pc := s.pc + 2 } s.readByte ∧
    Completes (.ldaI16 w) s { s with a := w, pc := s.pc + 3 } s.readByte ∧
    Completes (.ldbS8 v) s { s with b := BitVec.ofInt 16 v.toInt, pc := s.pc + 2 } s.readByte ∧
    Completes (.ldbU8 v) s { s with b := BitVec.ofNat 16 v.toNat, pc := s.pc + 2 } s.readByte ∧
    Completes (.ldbI16 w) s { s with b := w, pc := s.pc + 3 } s.readByte

/-- R141 to R144 (the spec's own choice D11): access through A; the pop stores change SP and the cells at A. -/
def Obligations.IndirectAccess : Prop :=
  ∀ s : State,
    Completes .deref s { s with a := s.readWord s.a, pc := s.pc + 1 } s.readByte ∧
    Completes .derefb s { s with a := BitVec.ofNat 16 (s.readByte s.a).toNat, pc := s.pc + 1 } s.readByte ∧
    Completes .popstore s { s with sp := s.sp + 2, pc := s.pc + 1 }
      (storedWord s.readByte s.a (s.readWord (s.sp + 1))) ∧
    Completes .popstoreb s { s with sp := s.sp + 2, pc := s.pc + 1 }
      (storedByte s.readByte s.a (s.readByte (s.sp + 1)))

/-! ## Stack, calls and return -/

/-- R150 to R153: pushes and pops of A and B (the registers are the spec's own choice D3). -/
def Obligations.PushesAndPops : Prop :=
  ∀ s : State,
    Completes .pusha s { s with sp := s.sp - 2, pc := s.pc + 1 } (storedWord s.readByte (s.sp - 1) s.a) ∧
    Completes .pushb s { s with sp := s.sp - 2, pc := s.pc + 1 } (storedWord s.readByte (s.sp - 1) s.b) ∧
    Completes .popa s { s with a := s.readWord (s.sp + 1), sp := s.sp + 2, pc := s.pc + 1 } s.readByte ∧
    Completes .popb s { s with b := s.readWord (s.sp + 1), sp := s.sp + 2, pc := s.pc + 1 } s.readByte

/-- R154 to R156 (the spec's own choices D18 and D19): SP and A; the `n` bytes from SP down, modulo 2^16, become zero and
SP goes below them. -/
def Obligations.StackPointerMovesAndAllocation : Prop :=
  ∀ (s : State) (n : Byte),
    Completes .getsp s { s with a := s.sp, pc := s.pc + 1 } s.readByte ∧
    Completes .setsp s { s with sp := s.a, pc := s.pc + 1 } s.readByte ∧
    Completes (.allocz n) s { s with sp := s.sp - BitVec.ofNat 16 n.toNat, pc := s.pc + 2 }
      (fun x => if (s.sp - x).toNat < n.toNat then 0 else s.readByte x)

/-- R160 to R162 (the spec's own choice D13): the frame holds the address after the operands and the caller's FP;
CALLALLOC lowers SP further and writes nothing there. -/
def Obligations.Calls : Prop :=
  ∀ (s : State) (t : Word) (n : Byte),
    Completes (.call t) s { s with sp := s.sp - 4, fp := s.sp - 3, pc := t }
      (storedWord (storedWord s.readByte (s.sp - 1) (s.pc + 3)) (s.sp - 3) s.fp) ∧
    Completes (.callalloc t n) s
      { s with sp := s.sp - 4 - BitVec.ofNat 16 n.toNat, fp := s.sp - 3, pc := t }
      (storedWord (storedWord s.readByte (s.sp - 1) (s.pc + 4)) (s.sp - 3) s.fp) ∧
    Completes .calla s { s with sp := s.sp - 4, fp := s.sp - 3, pc := s.a }
      (storedWord (storedWord s.readByte (s.sp - 1) (s.pc + 1)) (s.sp - 3) s.fp)

/-- R163: RET takes FP and PC from the frame at FP, whatever it holds. -/
def Obligations.ReturnReadsFrame : Prop :=
  ∀ s : State,
    Completes .ret s { s with sp := s.fp + 3, fp := s.readWord s.fp, pc := s.readWord (s.fp + 2) } s.readByte

/-- A call that reserves callee stack space, then RET, restores the caller's FP and SP and goes on after the call
(R161, R163; section 42 quotes the property). -/
def Obligations.ReturnAfterCallalloc : Prop :=
  ∀ (s : State) (target : Word) (n : Byte),
    ∃ t u, exec (.callalloc target n) s = .next t ∧ exec .ret t = .next u ∧
      u.pc = s.pc + 4 ∧ u.fp = s.fp ∧ u.sp = s.sp ∧ u.a = s.a ∧ u.b = s.b

/-! ## ALU -/

/-- R180, R181, R183, R188: addition, subtraction, product and negation modulo 2^16 (that `A op B` goes to A and leaves B
is the spec's own choice D6). -/
def Obligations.WrappingArithmetic : Prop :=
  ∀ s : State,
    Completes .add s { s with a := BitVec.ofNat 16 (s.a.toNat + s.b.toNat), pc := s.pc + 1 } s.readByte ∧
    Completes .sub s { s with a := BitVec.ofInt 16 ((s.a.toNat : Int) - s.b.toNat), pc := s.pc + 1 } s.readByte ∧
    Completes .mul s { s with a := s.a * s.b, pc := s.pc + 1 } s.readByte ∧
    Completes .neg s { s with a := BitVec.ofInt 16 (-(s.a.toNat : Int)), pc := s.pc + 1 } s.readByte

/-- R189 to R192: the bitwise operations (that `A op B` goes to A and leaves B is the spec's own choice D6). -/
def Obligations.BitwiseOperations : Prop :=
  ∀ s : State,
    Completes .not s { s with a := ~~~s.a, pc := s.pc + 1 } s.readByte ∧
    Completes .and s { s with a := s.a &&& s.b, pc := s.pc + 1 } s.readByte ∧
    Completes .or s { s with a := s.a ||| s.b, pc := s.pc + 1 } s.readByte ∧
    Completes .xor s { s with a := s.a ^^^ s.b, pc := s.pc + 1 } s.readByte

/-- R184 to R187 on a non-zero divisor: unsigned quotient and remainder; signed quotient toward zero, with
-32768 / -1 wrapping, and the remainder of that quotient (the spec's own choice D8). -/
def Obligations.DivisionByNonzero : Prop :=
  ∀ s : State, s.b ≠ 0 →
    Completes .divu s { s with a := s.a / s.b, pc := s.pc + 1 } s.readByte ∧
    Completes .modu s { s with a := s.a % s.b, pc := s.pc + 1 } s.readByte ∧
    Completes .divs s { s with a := s.a.sdiv s.b, pc := s.pc + 1 } s.readByte ∧
    Completes .mods s { s with a := s.a.srem s.b, pc := s.pc + 1 } s.readByte

/-- R196 and R313 (the spec's own choice D7). Under `DIV0_POLICY = fault` only the status and PC change, the fault
records the opcode byte, which is the one at `opaddr` (assumption log 14), and its address, and the host is told. Under
`value(qz, rz)` a function of the dividend goes to A and the engine stays Running; the functions are free (assumption
log 4). -/
def Obligations.DivisionByZero : Prop :=
  ∀ s : State, s.b = 0 →
    let after : State :=
      { s with
        pc := s.pc + 1
        status := .faulted (.divideByZero s.pc (s.readByte s.pc))
        events := s.events ++ [.fault (.divideByZero s.pc (s.readByte s.pc))] }
    (s.params.div0 = .fault →
      Completes .divu s after s.readByte ∧ Completes .divs s after s.readByte ∧
      Completes .modu s after s.readByte ∧ Completes .mods s after s.readByte) ∧
    (s.params.div0 = .value →
      Completes .divu s { s with a := Config.zeroQuotient s.a, pc := s.pc + 1 } s.readByte ∧
      Completes .divs s { s with a := Config.zeroQuotient s.a, pc := s.pc + 1 } s.readByte ∧
      Completes .modu s { s with a := Config.zeroRemainder s.a, pc := s.pc + 1 } s.readByte ∧
      Completes .mods s { s with a := Config.zeroRemainder s.a, pc := s.pc + 1 } s.readByte)

/-- R182 and R193 to R195 (the spec's own choices D6 and D9): reverse subtract, and shifts by the whole of B, 16 and
more included. -/
def Obligations.ReverseSubtractAndShifts : Prop :=
  ∀ s : State,
    Completes .rsub s { s with a := BitVec.ofInt 16 ((s.b.toNat : Int) - s.a.toNat), pc := s.pc + 1 } s.readByte ∧
    Completes .shl s { s with a := s.a <<< s.b.toNat, pc := s.pc + 1 } s.readByte ∧
    Completes .shr s { s with a := s.a >>> s.b.toNat, pc := s.pc + 1 } s.readByte ∧
    Completes .asr s { s with a := s.a.sshiftRight s.b.toNat, pc := s.pc + 1 } s.readByte

/-- R200 to R209: the ten comparisons, 0/1 into A (which operand is which is the spec's own choice D6). -/
def Obligations.Comparisons : Prop :=
  ∀ s : State,
    Completes .eq s { s with a := if s.a = s.b then 1 else 0, pc := s.pc + 1 } s.readByte ∧
    Completes .ne s { s with a := if s.a = s.b then 0 else 1, pc := s.pc + 1 } s.readByte ∧
    Completes .ult s { s with a := if s.a < s.b then 1 else 0, pc := s.pc + 1 } s.readByte ∧
    Completes .ule s { s with a := if s.b < s.a then 0 else 1, pc := s.pc + 1 } s.readByte ∧
    Completes .ugt s { s with a := if s.b < s.a then 1 else 0, pc := s.pc + 1 } s.readByte ∧
    Completes .uge s { s with a := if s.a < s.b then 0 else 1, pc := s.pc + 1 } s.readByte ∧
    Completes .slt s { s with a := if s.a.slt s.b then 1 else 0, pc := s.pc + 1 } s.readByte ∧
    Completes .sle s { s with a := if s.b.slt s.a then 0 else 1, pc := s.pc + 1 } s.readByte ∧
    Completes .sgt s { s with a := if s.b.slt s.a then 1 else 0, pc := s.pc + 1 } s.readByte ∧
    Completes .sge s { s with a := if s.a.slt s.b then 0 else 1, pc := s.pc + 1 } s.readByte

/-- R215 to R218: sign and zero extension of the low byte of A and of B. -/
def Obligations.Extensions : Prop :=
  ∀ s : State,
    Completes .sxa s { s with a := BitVec.ofInt 16 (s.a.extractLsb' 0 8).toInt, pc := s.pc + 1 } s.readByte ∧
    Completes .zxa s { s with a := s.a &&& 0x00FF, pc := s.pc + 1 } s.readByte ∧
    Completes .sxb s { s with b := BitVec.ofInt 16 (s.b.extractLsb' 0 8).toInt, pc := s.pc + 1 } s.readByte ∧
    Completes .zxb s { s with b := s.b &&& 0x00FF, pc := s.pc + 1 } s.readByte

/-! ## Control transfer -/

/-- R230 to R233: the relative jumps under any binding of REL8_TARGET, which keeps displacement 0x01 on the jump
itself; the default binding (the spec's own choice D5) and truthiness (D33). -/
def Obligations.RelativeJumps : Prop :=
  (∀ (s : State) (d : Byte),
    let target := rel8Target s.params.rel8 s.pc d
    Completes (.jmpRel8 d) s { s with pc := target } s.readByte ∧
    Completes (.jzRel8 d) s { s with pc := if s.a = 0 then target else s.pc + 2 } s.readByte ∧
    Completes (.jnzRel8 d) s { s with pc := if s.a = 0 then s.pc + 2 else target } s.readByte) ∧
  (∀ (r : Config.Rel8Binding) (x : Word), rel8Target r x 0x01 = x) ∧
  (∀ (x : Word) (d : Byte), rel8Target .backward x d = BitVec.ofInt 16 ((x.toNat : Int) + 1 - d.toInt))

/-- A Running engine whose PC stands at the bytes 0xD9, 0x01 is parked, under any bindings that keep 0xD9 where the source
fixes it: a step changes nothing but the host's record, by the trace event (R231, R320), which the model always emits
(assumption log 8). -/
def Obligations.SelfLoopParks : Prop :=
  ∀ s : State, kindAt s.params.opmap 0xD9 = .jmpRel8 → s.status = .running →
    s.readByte s.pc = 0xD9 → s.readByte (s.pc + 1) = 0x01 →
    step s = .next { s with events := s.events ++ [.trace s.a s.b s.pc s.sp s.fp] }

/-- R234 to R236: the absolute jumps (truthiness is the spec's own choice D33). -/
def Obligations.AbsoluteJumps : Prop :=
  ∀ (s : State) (t : Word),
    Completes (.jmpAbs t) s { s with pc := t } s.readByte ∧
    Completes (.jzAbs t) s { s with pc := if s.a = 0 then t else s.pc + 3 } s.readByte ∧
    Completes (.jnzAbs t) s { s with pc := if s.a = 0 then s.pc + 3 else t } s.readByte

/-- R237, the literal SWITCHRANGE: PC is always the table word at `T + 2*(A - low)`; a selector just below the range
reads the default operand that stands before the table, which is `default16` when the instruction's bytes are at PC. -/
def Obligations.SwitchrangeLiteral : Prop :=
  ∀ (s : State) (low high dflt : Word), s.params.switchRange = .literal →
    Completes (.switchrange low high dflt) s
      { s with pc := s.readWord (s.pc + 7 + 2 * (s.a - low)) } s.readByte ∧
    (s.a = low - 1 → s.bytesFrom s.pc 7 = encode s.params.opmap (.switchrange low high dflt) →
      Completes (.switchrange low high dflt) s { s with pc := dflt } s.readByte)

/-- R238, the intended SWITCHRANGE (not the default; the spec's own choice D15): a selector outside the signed range
goes to the default. -/
def Obligations.SwitchrangeIntended : Prop :=
  ∀ (s : State) (low high dflt : Word), s.params.switchRange = .intended →
    Completes (.switchrange low high dflt) s
      { s with pc := if s.a.toInt < low.toInt ∨ high.toInt < s.a.toInt then dflt
                     else s.readWord (s.pc + 7 + 2 * (s.a - low)) } s.readByte

/-- R239 (the spec's own choice D14 for the count): the first pair whose value is A wins; with no match the default. -/
def Obligations.SwitchlistTakesFirstMatch : Prop :=
  ∀ (s : State) (before after : List (Word × Word)) (t dflt : Word), (∀ p ∈ before, p.1 ≠ s.a) →
    Completes (.switchlist before dflt) s { s with pc := dflt } s.readByte ∧
    Completes (.switchlist (before ++ (s.a, t) :: after) dflt) s { s with pc := t } s.readByte

/-! ## I/O port and block memory -/

/-- R260 (the spec's own choice D16): IN on port 0 takes the host's byte, or at end of input a free value (assumption
log 3); a host that never answers leaves the step unfinished; any other port changes nothing but PC. -/
def Obligations.PortInput : Prop :=
  ∀ s : State,
    (∀ v rest, s.input = .byte v :: rest →
      Completes (.portIn 0) s
        { s with a := BitVec.ofNat 16 v.toNat, pc := s.pc + 2, input := rest, events := s.events ++ [.input s.pc] }
        s.readByte) ∧
    (s.input = [] →
      Completes (.portIn 0) s
        { s with a := Config.endOfInput s.inputDraws, pc := s.pc + 2, inputDraws := s.inputDraws + 1
                 events := s.events ++ [.input s.pc] } s.readByte) ∧
    (∀ rest, s.input = .silent :: rest → exec (.portIn 0) s = .fault .hostSilent) ∧
    (∀ port, port ≠ 0 → Completes (.portIn port) s { s with pc := s.pc + 2 } s.readByte)

/-- R261 (the spec's own choice D16): OUT on port 0 sends A's low byte; any other port changes nothing but PC. -/
def Obligations.PortOutput : Prop :=
  ∀ (s : State) (port : Byte),
    Completes (.portOut port) s
      { s with pc := s.pc + 2
               events := if port = 0 then s.events ++ [.output (s.a.extractLsb' 0 8)] else s.events } s.readByte

/-- R264 (the spec's own choice D17): the copy is one ascending byte at a time. Every cell outside the destination
block is unchanged, and the k-th destination byte is the k-th source byte as it was, or, where an earlier byte of the
same copy had already overwritten that source cell, as it was overwritten. -/
def Obligations.BlockCopy : Prop :=
  ∀ (s : State) (n : Word), ∃ rd : Word → Byte,
    Completes (.bcopy n) s { s with pc := s.pc + 3 } rd ∧
    (∀ x, n.toNat ≤ (x - s.a).toNat → rd x = s.readByte x) ∧
    (∀ k : Word, k.toNat < n.toNat →
      rd (s.a + k) = if (s.b + k - s.a).toNat < k.toNat then rd (s.b + k) else s.readByte (s.b + k))

/-- R265 (the spec's own choice D17): the `n` bytes from A up, modulo 2^16, hold B's low byte. -/
def Obligations.BlockFill : Prop :=
  ∀ (s : State) (n : Word),
    Completes (.bfill n) s { s with pc := s.pc + 3 }
      (fun x => if (x - s.a).toNat < n.toNat then s.b.extractLsb' 0 8 else s.readByte x)

/-- R266 (the spec's own choice D17): 1 when all `n` byte pairs are equal, else 0. -/
def Obligations.BlockCompare : Prop :=
  ∀ (s : State) (n : Word),
    ((∀ k : Word, k < n → s.readByte (s.a + k) = s.readByte (s.b + k)) →
      Completes (.bcmp n) s { s with a := 1, pc := s.pc + 3 } s.readByte) ∧
    ((∃ k : Word, k < n ∧ s.readByte (s.a + k) ≠ s.readByte (s.b + k)) →
      Completes (.bcmp n) s { s with a := 0, pc := s.pc + 3 } s.readByte)

/-! ## Bit-field and direct-count -/

/-- R280 and R281: bit by bit, the field of B that starts at `start` and is `wm1 + 1` wide, sign-extended or not; bits
of B above bit 15 read as 0 (the spec's own choice D21). -/
def Obligations.FieldLoads : Prop :=
  ∀ (s : State) (start wm1 : Nibble), ∃ u v : Word,
    Completes (.uloadbf start wm1) s { s with a := u, pc := s.pc + 2 } s.readByte ∧
    Completes (.sloadbf start wm1) s { s with a := v, pc := s.pc + 2 } s.readByte ∧
    ∀ k, k < 16 →
      u.getLsbD k = (decide (k ≤ wm1.toNat) && s.b.getLsbD (start.toNat + k)) ∧
      v.getLsbD k = s.b.getLsbD (start.toNat + min k wm1.toNat)

/-- R282: bit by bit, B with the low `wm1 + 1` bits of A at `start`; what falls above bit 15 is lost (the spec's own
choice D21). -/
def Obligations.FieldStore : Prop :=
  ∀ (s : State) (start wm1 : Nibble), ∃ w : Word,
    Completes (.storebf start wm1) s { s with b := w, pc := s.pc + 2 } s.readByte ∧
    ∀ k, k < 16 →
      w.getLsbD k = if start.toNat ≤ k ∧ k ≤ start.toNat + wm1.toNat then s.a.getLsbD (k - start.toNat)
                    else s.b.getLsbD k

/-- R282 and C5: a field that fits B, stored and loaded back, gives the low bits of A, zero- or sign-extended. -/
def Obligations.StoredFieldLoadsBack : Prop :=
  ∀ (s : State) (start wm1 : Nibble), start.toNat + wm1.toNat + 1 ≤ 16 →
    ∃ t u v, exec (.storebf start wm1) s = .next t ∧
      exec (.uloadbf start wm1) t = .next u ∧ exec (.sloadbf start wm1) t = .next v ∧
      u.a.toNat = s.a.toNat % 2 ^ (wm1.toNat + 1) ∧ v.a.toInt = (s.a.toNat : Int).bmod (2 ^ (wm1.toNat + 1))

/-- R283 (the spec's own choice D20): the four modes, with `p` the word in the fast slot and `q` the stepped pointer;
±1 walks bytes and ±2 walks words; each clause orders the accesses as the rule lists them. -/
def Obligations.DirectCountModes : Prop :=
  ∀ (s : State) (st : DcStep) (i : Nibble),
    let slot := fastAddr s.fp i
    let p := s.readWord slot
    let q := p + BitVec.ofInt 16 (match st with | .plus1 => 1 | .plus2 => 2 | .minus1 => -1 | .minus2 => -2)
    let isByte := st = .plus1 ∨ st = .minus1
    let load (rd : Word → Byte) (x : Word) : Word := if isByte then BitVec.ofNat 16 (rd x).toNat else wordOf rd x
    let store (rd : Word → Byte) (x : Word) : Word → Byte :=
      if isByte then storedByte rd x (s.a.extractLsb' 0 8) else storedWord rd x s.a
    let stepped := storedWord s.readByte slot q
    Completes (.dcount .ldpost st i) s { s with a := load s.readByte p, pc := s.pc + 2 } stepped ∧
    Completes (.dcount .stpost st i) s { s with pc := s.pc + 2 } (storedWord (store s.readByte p) slot q) ∧
    Completes (.dcount .ldpre st i) s { s with a := load stepped q, pc := s.pc + 2 } stepped ∧
    Completes (.dcount .stpre st i) s { s with pc := s.pc + 2 } (store stepped q)

/-! ## The illegal opcode -/

/-- R301 and R312: the diagnostic reaches the host, PC is one past the opcode, nothing else changes and the engine goes
on. -/
def Obligations.IllegalOpcodeReportsAndGoesOn : Prop :=
  ∀ (s : State) (op : Byte),
    Completes (.illegal op) s
      { s with pc := s.pc + 1, events := s.events ++ [.illegalOpcode op s.pc] } s.readByte

/-! ## The whole instruction set -/

/-- R24, in part: FP is written only by the calls and the return. -/
def Obligations.FpWrittenOnlyByCallsAndReturn : Prop :=
  ∀ (i : Instr) (s t : State), exec i s = .next t → i.isCallOrReturn = false → t.fp = s.fp

/-- What no other instruction changes: SP (R23), B (R22), any cell of memory, and the bindings of the parameters. -/
def Obligations.RegistersAndMemoryWrittenOnlyByTheirWriters : Prop :=
  ∀ (i : Instr) (s t : State), exec i s = .next t →
    (i.mayWriteSp = false → t.sp = s.sp) ∧ (i.mayWriteB = false → t.b = s.b) ∧
    (i.mayStore = false → ∀ x, t.readByte x = s.readByte x) ∧ t.params = s.params

/-- R25: an instruction that does not transfer control leaves PC just after its last operand byte; no binding of `OPMAP`
changes a length. -/
def Obligations.NonTransferAdvancesPcByLength : Prop :=
  ∀ (i : Instr) (s t : State), i.isTransfer = false → exec i s = .next t →
    ∀ m : Config.OpMap, t.pc = s.pc + BitVec.ofNat 16 (encode m i).length

/-- R311 and R314: an instruction changes the status only if it is a divide, its divisor is zero and the policy is
fault. -/
def Obligations.StatusChangesOnlyAtDivideByZero : Prop :=
  ∀ (i : Instr) (s t : State), exec i s = .next t → t.status ≠ s.status →
    i.isDivide = true ∧ s.b = 0 ∧ s.params.div0 = .fault
end

