-- ==== Sys2Proof/Laws/Arith.lean ====
section
/-! SUPPORT. The bit-field helpers, bit by bit. -/

namespace Sys2Proof.Machine

/-- A mask of `w` bits has exactly the bits below `w`. -/
theorem fieldMask_getLsbD {w k : Nat} (hk : k < 16) : (fieldMask w).getLsbD k = decide (k < w) := by
  rw [fieldMask, trunc16, BitVec.ofInt_natCast, BitVec.getLsbD_ofNat]
  simp [Nat.testBit_two_pow_sub_one, hk]

/-- The field of width `w` from bit `start` of a word (R281). -/
theorem fieldOf_getLsbD (b : Word) (start w : Nat) {k : Nat} (hk : k < 16) :
    (fieldOf b start w).getLsbD k = (decide (k < w) && b.getLsbD (start + k)) := by
  rw [fieldOf, BitVec.getLsbD_and, BitVec.getLsbD_ushiftRight, fieldMask_getLsbD hk, Bool.and_comm]

/-- A word shifted up and cut to 16 bits (R282). -/
theorem trunc16_shift_getLsbD (x : Word) (n : Nat) {k : Nat} (hk : k < 16) :
    (trunc16 (x.toNat * 2 ^ n : Nat)).getLsbD k = (decide (n ≤ k) && x.getLsbD (k - n)) := by
  rw [trunc16, BitVec.ofInt_natCast, BitVec.getLsbD_ofNat, Nat.testBit_mul_two_pow]
  simp [hk, BitVec.getLsbD]

end Sys2Proof.Machine
end

