-- ==== Sys2Proof/Laws/Bits.lean ====
section
/-! SUPPORT. The bit fields, the byte order and the nibbles: taking apart and putting together are inverse. -/

namespace Sys2Proof.Machine

theorem toNat_joinBytes (lo hi : Byte) : (joinBytes lo hi).toNat = 256 * hi.toNat + lo.toNat := by
  simp only [joinBytes, BitVec.toNat_append, Nat.shiftLeft_eq]
  rw [Nat.mul_comm, ← Nat.two_pow_add_eq_or_of_lt lo.isLt]

theorem toNat_lowByte (v : Word) : (lowByte v).toNat = v.toNat % 256 := by
  simp [lowByte, BitVec.extractLsb'_toNat]

theorem toNat_highByte (v : Word) : (highByte v).toNat = v.toNat / 256 := by
  have hv := v.isLt
  simp only [highByte, BitVec.extractLsb'_toNat, Nat.shiftRight_eq_div_pow]
  omega

theorem joinBytes_low_high (v : Word) : joinBytes (lowByte v) (highByte v) = v := by
  apply BitVec.eq_of_toNat_eq
  rw [toNat_joinBytes, toNat_lowByte, toNat_highByte]
  omega

theorem lowByte_joinBytes (lo hi : Byte) : lowByte (joinBytes lo hi) = lo := by
  apply BitVec.eq_of_toNat_eq
  have hlo := lo.isLt
  rw [toNat_lowByte, toNat_joinBytes]
  omega

theorem highByte_joinBytes (lo hi : Byte) : highByte (joinBytes lo hi) = hi := by
  apply BitVec.eq_of_toNat_eq
  have hlo := lo.isLt
  rw [toNat_highByte, toNat_joinBytes]
  omega

theorem lowNibble_append (hi lo : Nibble) : lowNibble (hi ++ lo) = lo := by
  revert hi lo; decide

theorem highNibble_append (hi lo : Nibble) : highNibble (hi ++ lo) = hi := by
  revert hi lo; decide

theorem highNibble_append_lowNibble (v : Byte) : highNibble v ++ lowNibble v = v := by
  revert v; decide

end Sys2Proof.Machine
end

