-- ==== Sys2Proof/Laws/Decode.lean ====
section
/-! SUPPORT. Decode and encode, part by part: a word, a list of pairs, the fields of DCOUNT's byte, the opcode map. -/

namespace Sys2Proof

open Machine

theorem takeWord_wordBytes (w : Word) (bs : List Byte) : takeWord (wordBytes w ++ bs) = some (w, bs) := by
  simp [takeWord, wordBytes, joinBytes_low_high]

/-- A word that is taken is the two bytes it was taken from. -/
theorem takeWord_eq_some {bs rest : List Byte} {w : Word} (h : takeWord bs = some (w, rest)) :
    bs = wordBytes w ++ rest := by
  match bs, h with
  | lo :: hi :: bs, h =>
    simp only [takeWord, Option.some.injEq, Prod.mk.injEq] at h
    obtain ⟨rfl, rfl⟩ := h
    simp [wordBytes, lowByte_joinBytes, highByte_joinBytes]

theorem takeWord_of_length {bs : List Byte} (h : 2 ≤ bs.length) :
    ∃ w rest, takeWord bs = some (w, rest) ∧ bs.length = rest.length + 2 := by
  match bs, h with
  | lo :: hi :: bs, _ => exact ⟨_, _, rfl, by simp⟩

theorem takePairs_pairBytes (ps : List (Word × Word)) (bs : List Byte) :
    takePairs ps.length (pairBytes ps ++ bs) = some (ps, bs) := by
  induction ps with
  | nil => rfl
  | cons p ps ih =>
    obtain ⟨v, t⟩ := p
    simp [takePairs, pairBytes, List.append_assoc, takeWord_wordBytes, ih]

/-- Pairs that are taken are the bytes they were taken from, as many as were asked for. -/
theorem takePairs_eq_some {n : Nat} {bs rest : List Byte} {ps : List (Word × Word)}
    (h : takePairs n bs = some (ps, rest)) : ps.length = n ∧ bs = pairBytes ps ++ rest := by
  induction n generalizing bs ps with
  | zero =>
    simp only [takePairs, Option.some.injEq, Prod.mk.injEq] at h
    obtain ⟨rfl, rfl⟩ := h
    simp [pairBytes]
  | succ n ih =>
    simp only [takePairs, Option.bind_eq_bind, Option.bind_eq_some_iff] at h
    obtain ⟨⟨v, bs1⟩, h1, ⟨t, bs2⟩, h2, ⟨qs, bs3⟩, h3, h4⟩ := h
    simp only [Option.some.injEq, Prod.mk.injEq] at h4
    obtain ⟨rfl, rfl⟩ := h4
    dsimp only at h2 h3
    obtain ⟨hl, hb⟩ := ih h3
    refine ⟨by simp [hl], ?_⟩
    rw [takeWord_eq_some h1, takeWord_eq_some h2, hb]
    simp [pairBytes, List.append_assoc]

theorem takePairs_of_length {n : Nat} {bs : List Byte} (h : 4 * n ≤ bs.length) :
    ∃ ps rest, takePairs n bs = some (ps, rest) ∧ bs.length = rest.length + 4 * n := by
  induction n generalizing bs with
  | zero => exact ⟨[], bs, rfl, by simp⟩
  | succ n ih =>
    obtain ⟨v, b1, h1, l1⟩ := takeWord_of_length (bs := bs) (by omega)
    obtain ⟨t, b2, h2, l2⟩ := takeWord_of_length (bs := b1) (by omega)
    obtain ⟨ps, b3, h3, l3⟩ := ih (bs := b2) (by omega)
    exact ⟨(v, t) :: ps, b3, by simp [takePairs, h1, h2, h3], by omega⟩

theorem dcModeOf_bits (m : DcMode) (st : DcStep) (i : Nibble) :
    dcModeOf (dcModeBits m ++ dcStepBits st ++ i) = m := by
  revert i; cases m <;> cases st <;> decide

theorem dcStepOf_bits (m : DcMode) (st : DcStep) (i : Nibble) :
    dcStepOf (dcModeBits m ++ dcStepBits st ++ i) = st := by
  revert i; cases m <;> cases st <;> decide

theorem lowNibble_bits (m : DcMode) (st : DcStep) (i : Nibble) :
    lowNibble (dcModeBits m ++ dcStepBits st ++ i) = i := by
  revert i; cases m <;> cases st <;> decide

theorem dcount_bits (dc : Byte) : dcModeBits (dcModeOf dc) ++ dcStepBits (dcStepOf dc) ++ lowNibble dc = dc := by
  revert dc; decide

end Sys2Proof
end

