-- ==== Sys2Proof/Laws/Memory.lean ====
section
/-! SUPPORT. The laws of the memory list: what a read gives after each operation, that every operation keeps the
canonical form, and that two canonical memories that read alike are equal. -/

namespace Sys2Proof.Machine

/-! ## Reads -/

theorem Memory.lookup_erase (m : Memory) (k j : Nat) :
    (m.erase k).lookup j = if j = k then unlistedByte else m.lookup j := by
  induction m with
  | nil => simp [Memory.erase, Memory.lookup]
  | cons c m ih =>
    by_cases h : c.1 = k
    · have : Memory.erase (c :: m) k = Memory.erase m k := by simp [Memory.erase, h]
      rw [this, ih]
      by_cases hj : j = k
      · simp [hj]
      · have : c.1 ≠ j := fun e => hj (by omega)
        simp [Memory.lookup, hj, this]
    · have : Memory.erase (c :: m) k = c :: Memory.erase m k := by simp [Memory.erase, h]
      rw [this]
      by_cases hj : c.1 = j
      · have : j ≠ k := fun e => h (by omega)
        simp [Memory.lookup, hj, this]
      · simp [Memory.lookup, hj, ih]

theorem Memory.lookup_insert (m : Memory) (k j : Nat) (v : Byte) (h : ∀ c ∈ m, c.1 ≠ k) :
    (Memory.insert k v m).lookup j = if j = k then v else m.lookup j := by
  induction m with
  | nil => simp [Memory.insert, Memory.lookup, eq_comm]
  | cons c m ih =>
    have hc : c.1 ≠ k := h c (by simp)
    have ih := ih (fun d hd => h d (by simp [hd]))
    by_cases hlt : k < c.1
    · simp [Memory.insert, hlt, Memory.lookup, eq_comm]
    · simp only [Memory.insert, hlt, if_false, Memory.lookup, ih]
      split
      · rw [if_neg]; omega
      · rfl

theorem Memory.mem_erase_ne (m : Memory) (k : Nat) : ∀ c ∈ m.erase k, c.1 ≠ k := by
  intro c hc
  simpa [Memory.erase] using (List.mem_filter.mp hc).2

/-- A read after a one-byte write (R41, R42). -/
theorem Memory.read_write (m : Memory) (x y : Word) (v : Byte) :
    (m.write x v).read y = if y = x then v else m.read y := by
  unfold Memory.write Memory.read
  by_cases e : y = x
  · subst e
    split
    · simp_all [Memory.lookup_erase]
    · simp [Memory.lookup_insert _ _ _ _ (Memory.mem_erase_ne m _)]
  · have e' : y.toNat ≠ x.toNat := fun h => e (BitVec.eq_of_toNat_eq h)
    split
    · simp [Memory.lookup_erase, e']
    · simp [Memory.lookup_insert _ _ _ _ (Memory.mem_erase_ne m _), Memory.lookup_erase, e']

theorem Memory.read_write_self (m : Memory) (x : Word) (v : Byte) : (m.write x v).read x = v := by
  simp [Memory.read_write]

theorem Memory.read_write_of_ne (m : Memory) {x y : Word} (v : Byte) (h : y ≠ x) :
    (m.write x v).read y = m.read y := by
  simp [Memory.read_write, h]

/-- A read after a word write (R41, R42). -/
theorem Memory.read_writeWord (m : Memory) (x y v : Word) :
    (m.writeWord x v).read y =
      if y = x then lowByte v else if y = x + 1 then highByte v else m.read y := by
  have hne : x ≠ x + 1 := by bv_omega
  unfold Memory.writeWord
  simp only [Memory.read_write]
  split <;> split <;> simp_all

/-- The address `x - k` is `y` for one `k` below 2^16 only. -/
theorem sub_toNat_lt_iff (x y : Word) (n : Nat) :
    (y - x).toNat < n + 1 ↔ y = x ∨ (y - (x + 1)).toNat < n ∧ y ≠ x := by
  constructor
  · intro h
    by_cases e : y = x
    · exact .inl e
    · right; refine ⟨?_, e⟩; bv_omega
  · rintro (rfl | ⟨h, e⟩)
    · simp
    · bv_omega

/-- A read after a fill: the `n` bytes from `x` up, modulo 2^16 (R265). -/
theorem Memory.read_fill (m : Memory) (x y : Word) (v : Byte) (n : Nat) :
    (m.fill x v n).read y = if (y - x).toNat < n then v else m.read y := by
  induction n generalizing m x with
  | zero => simp [Memory.fill]
  | succ n ih =>
    rw [Memory.fill, ih, Memory.read_write]
    have := sub_toNat_lt_iff x y n
    by_cases e : y = x
    · subst e; simp
    · simp only [e, this, if_false, false_or, ne_eq, not_false_eq_true, and_true]

/-- A read after a downward zeroing: the `n` bytes from `x` down, modulo 2^16 (R156). -/
theorem Memory.read_zeroDown (m : Memory) (x y : Word) (n : Nat) :
    (m.zeroDown x n).read y = if (x - y).toNat < n then 0 else m.read y := by
  induction n generalizing m x with
  | zero => simp [Memory.zeroDown]
  | succ n ih =>
    rw [Memory.zeroDown, ih, Memory.read_write]
    by_cases e : y = x
    · subst e; simp
    · have : (x - y).toNat < n + 1 ↔ (x - 1 - y).toNat < n := by
        constructor <;> intro h <;> bv_omega
      simp only [e, this, if_false]

/-- A byte outside the destination block is not changed by a copy (R264). -/
theorem Memory.read_copy_outside (m : Memory) (dst src y : Word) (n : Nat) (h : n ≤ (y - dst).toNat) :
    (m.copy dst src n).read y = m.read y := by
  induction n generalizing m dst src with
  | zero => rfl
  | succ n ih =>
    have e : y ≠ dst := by rintro rfl; simp at h
    rw [Memory.copy, ih _ _ _ (by bv_omega), Memory.read_write_of_ne _ _ e]

/-- One more byte of a copy is copied last (R264: ascending). -/
theorem Memory.copy_succ (m : Memory) (dst src : Word) (n : Nat) :
    m.copy dst src (n + 1) =
      (m.copy dst src n).write (dst + BitVec.ofNat 16 n) ((m.copy dst src n).read (src + BitVec.ofNat 16 n)) := by
  induction n generalizing m dst src with
  | zero => simp [Memory.copy]
  | succ n ih =>
    rw [Memory.copy, ih]
    have e : ∀ x : Word, x + 1 + BitVec.ofNat 16 n = x + BitVec.ofNat 16 (n + 1) := by
      intro x; bv_omega
    rw [e, e, Memory.copy]

/-- The `k`-th byte of a copy is what its source cell held when the copy reached it (R264). -/
theorem Memory.read_copy (m : Memory) (dst src : Word) (n : Nat) (hn : n < 65536) (k : Nat) (hk : k < n) :
    (m.copy dst src n).read (dst + BitVec.ofNat 16 k) = (m.copy dst src k).read (src + BitVec.ofNat 16 k) := by
  induction n with
  | zero => omega
  | succ n ih =>
    rw [Memory.copy_succ, Memory.read_write]
    by_cases e : k = n
    · subst e; simp
    · have hne : dst + BitVec.ofNat 16 k ≠ dst + BitVec.ofNat 16 n := by
        intro h
        have := congrArg BitVec.toNat (add_left_cancel h)
        simp only [BitVec.toNat_ofNat] at this
        omega
      rw [if_neg hne, ih (by omega) (by omega)]

/-- A block compare says whether all byte pairs are equal (R266). -/
theorem Memory.equalBlocks_iff (m : Memory) (x y : Word) (n : Nat) :
    m.equalBlocks x y n = true ↔
      ∀ k, k < n → m.read (x + BitVec.ofNat 16 k) = m.read (y + BitVec.ofNat 16 k) := by
  induction n generalizing x y with
  | zero => simp [Memory.equalBlocks]
  | succ n ih =>
    have e : ∀ (z : Word) (k : Nat), z + 1 + BitVec.ofNat 16 k = z + BitVec.ofNat 16 (k + 1) := by
      intro z k; bv_omega
    simp only [Memory.equalBlocks, Bool.and_eq_true, beq_iff_eq, ih, e]
    constructor
    · rintro ⟨h0, h⟩ (_ | k) hk
      · simpa using h0
      · exact h k (by omega)
    · intro h
      exact ⟨by simpa using h 0 (by omega), fun k hk => h (k + 1) (by omega)⟩

/-! ## The canonical form -/

theorem Memory.wf_filter {m : Memory} (h : m.wf) (p : Host.Cell → Bool) : Memory.wf (m.filter p) :=
  ⟨h.1.filter p, fun c hc => h.2 c (List.mem_filter.mp hc).1⟩

theorem Memory.wf_erase {m : Memory} (h : m.wf) (k : Nat) : (m.erase k).wf := Memory.wf_filter h _

theorem Memory.mem_insert {m : Memory} {k : Nat} {v : Byte} {c : Host.Cell} :
    c ∈ Memory.insert k v m ↔ c = (k, v) ∨ c ∈ m := by
  induction m with
  | nil => simp [Memory.insert]
  | cons d m ih =>
    simp only [Memory.insert]
    split
    · simp
    · simp only [List.mem_cons, ih]; tauto

theorem Memory.wf_insert {m : Memory} (h : m.wf) {k : Nat} {v : Byte} (hk : k < 65536) (hv : v ≠ unlistedByte)
    (hm : ∀ c ∈ m, c.1 ≠ k) : (Memory.insert k v m).wf := by
  refine ⟨?_, fun c hc => ?_⟩
  · obtain ⟨hp, -⟩ := h
    induction m with
    | nil => simp [Memory.insert]
    | cons d m ih =>
      have hd := hm d (by simp)
      have hp' := List.pairwise_cons.mp hp
      simp only [Memory.insert]
      split
      · rename_i hlt
        refine List.pairwise_cons.mpr ⟨fun c hc => ?_, hp⟩
        rcases List.mem_cons.mp hc with rfl | hc
        · exact hlt
        · exact lt_trans hlt (hp'.1 c hc)
      · refine List.pairwise_cons.mpr ⟨fun c hc => ?_, ih (fun c hc => hm c (by simp [hc])) hp'.2⟩
        rcases Memory.mem_insert.mp hc with rfl | hc
        · simp only; omega
        · exact hp'.1 c hc
  · rcases Memory.mem_insert.mp hc with rfl | hc
    · exact ⟨hk, hv⟩
    · exact h.2 c hc

theorem Memory.wf_write {m : Memory} (h : m.wf) (x : Word) (v : Byte) : (m.write x v).wf := by
  unfold Memory.write
  split
  · exact Memory.wf_erase h _
  · exact Memory.wf_insert (Memory.wf_erase h _) x.isLt ‹_› (Memory.mem_erase_ne m _)

theorem Memory.wf_writeWord {m : Memory} (h : m.wf) (x v : Word) : (m.writeWord x v).wf :=
  Memory.wf_write (Memory.wf_write h _ _) _ _

theorem Memory.wf_copy {m : Memory} (h : m.wf) (dst src : Word) (n : Nat) : (m.copy dst src n).wf := by
  induction n generalizing m dst src with
  | zero => exact h
  | succ n ih => exact ih (Memory.wf_write h _ _) _ _

theorem Memory.wf_fill {m : Memory} (h : m.wf) (dst : Word) (v : Byte) (n : Nat) : (m.fill dst v n).wf := by
  induction n generalizing m dst with
  | zero => exact h
  | succ n ih => exact ih (Memory.wf_write h _ _) _

theorem Memory.wf_zeroDown {m : Memory} (h : m.wf) (top : Word) (n : Nat) : (m.zeroDown top n).wf := by
  induction n generalizing m top with
  | zero => exact h
  | succ n ih => exact ih (Memory.wf_write h _ _) _

theorem Memory.wf_clear {m : Memory} (h : m.wf) (x : Word) (n : Nat) : (m.clear x n).wf := Memory.wf_filter h _

theorem Memory.wf_place {m : Memory} (h : m.wf) (x : Word) (vs : List Byte) : (m.place x vs).wf := by
  induction vs generalizing m x with
  | nil => exact h
  | cons v vs ih => exact ih (Memory.wf_write h _ _) _

theorem resetMemory_wf (initMem : Word → Byte) (image : List Byte) : (resetMemory initMem image).wf := by
  refine ⟨?_, ?_⟩
  · unfold resetMemory
    rw [List.pairwise_filterMap]
    refine List.Pairwise.imp (R := (· < ·)) ?_ List.pairwise_lt_range
    intro j k hjk c hc d hd
    split at hc <;> split at hd <;> simp only [Option.some.injEq, reduceCtorEq] at hc hd
    subst hc; subst hd
    exact hjk
  · intro c hc
    obtain ⟨k, hk, hc⟩ := List.mem_filterMap.mp hc
    split at hc
    · simp at hc
    · simp only [Option.some.injEq] at hc
      subst hc
      exact ⟨List.mem_range.mp hk, ‹_›⟩

theorem Memory.lookup_eq_of_mem {m : Memory} (h : m.Pairwise (fun c d => c.1 < d.1)) {c : Host.Cell} (hc : c ∈ m) :
    m.lookup c.1 = c.2 := by
  induction m with
  | nil => simp at hc
  | cons d m ih =>
    obtain ⟨hd, hm⟩ := List.pairwise_cons.mp h
    rcases List.mem_cons.mp hc with rfl | hc
    · simp [Memory.lookup]
    · have := hd c hc
      simp only [Memory.lookup]
      rw [if_neg (by omega)]
      exact ih hm hc

theorem Memory.mem_of_lookup_ne {m : Memory} {k : Nat} (h : m.lookup k ≠ unlistedByte) : (k, m.lookup k) ∈ m := by
  induction m with
  | nil => simp [Memory.lookup] at h
  | cons d m ih =>
    simp only [Memory.lookup] at h ⊢
    split
    · rename_i e; subst e; simp
    · rename_i e; rw [if_neg e] at h; simp [ih h]

/-- What a cell reads as after the reset fill and the image (R340, R342). -/
theorem resetMemory_read (initMem : Word → Byte) (image : List Byte) (x : Word) :
    (resetMemory initMem image).read x = resetCell initMem image x.toNat := by
  have hwf := resetMemory_wf initMem image
  unfold Memory.read
  by_cases h : resetCell initMem image x.toNat = unlistedByte
  · by_contra hne
    rw [h] at hne
    obtain ⟨k, hk, hc⟩ := List.mem_filterMap.mp (Memory.mem_of_lookup_ne hne)
    split at hc
    · simp at hc
    · simp_all
  · refine Memory.lookup_eq_of_mem hwf.1 (c := (x.toNat, resetCell initMem image x.toNat)) ?_
    exact List.mem_filterMap.mpr ⟨x.toNat, List.mem_range.mpr x.isLt, by simp [h]⟩

/-- Two canonical memories that read alike are the same list. -/
theorem Memory.eq_of_read_eq {m n : Memory} (hm : m.wf) (hn : n.wf) (h : ∀ x, m.read x = n.read x) : m = n := by
  have sub : ∀ {m n : Memory}, m.wf → n.wf → (∀ x, m.read x = n.read x) → ∀ c, c ∈ m → c ∈ n := by
    intro m n hm hn h c hc
    have hx : (BitVec.ofNat 16 c.1 : Word).toNat = c.1 := by
      have := (hm.2 c hc).1
      simp only [BitVec.toNat_ofNat]
      omega
    have e := h (BitVec.ofNat 16 c.1)
    unfold Memory.read at e
    rw [hx, Memory.lookup_eq_of_mem hm.1 hc] at e
    have := Memory.mem_of_lookup_ne (m := n) (k := c.1) (by rw [← e]; exact (hm.2 c hc).2)
    rwa [← e] at this
  have nodup : ∀ {m : Memory}, m.wf → m.Nodup := fun hm =>
    hm.1.imp (fun hlt e => by rw [e] at hlt; exact lt_irrefl _ hlt)
  have perm : m.Perm n := (List.perm_ext_iff_of_nodup (nodup hm) (nodup hn)).mpr
    (fun c => ⟨sub hm hn h c, sub hn hm (fun x => (h x).symm) c⟩)
  refine perm.eq_of_pairwise (le := fun c d => c.1 < d.1) ?_ hm.1 hn.1
  intro c d _ _ hcd hdc
  exact absurd (lt_trans hcd hdc) (lt_irrefl _)

end Sys2Proof.Machine
end

