-- ==== Sys2Proof/Laws/Opmap.lean ====
section
/-! SUPPORT. The two readings of a binding of `OPMAP` are inverse, the default binding is admissible, and what the opcode
byte of an encoding selects. -/

namespace Sys2Proof.Machine

open Config

/-- A value a list holds once stands at one index. -/
theorem index_unique_of_count_one {m : OpMap} {k : OpKind} (hc : m.count k = 1) {i j : Nat} (hi : i < m.length)
    (hj : j < m.length) (ei : m[i] = k) (ej : m[j] = k) : i = j := by
  have key : ∀ a b : Nat, ∀ (ha : a < m.length) (hb : b < m.length), m[a] = k → m[b] = k → ¬ a < b := by
    intro a b ha hb ea eb hab
    have : List.Duplicate k m := List.duplicate_iff_exists_distinct_get.mpr ⟨⟨a, ha⟩, ⟨b, hb⟩, hab, ea.symm, eb.symm⟩
    have := List.duplicate_iff_two_le_count.mp this
    omega
  have h1 := key i j hi hj ei ej
  have h2 := key j i hj hi ej ei
  omega

/-- The code of a kind that the map has is a byte of 0x80 to 0xFF, and selects that kind. -/
theorem kindAt_codeOf {m : OpMap} (hl : m.length = 128) {k : OpKind} (hk : k ∈ m) :
    (codeOf m k).msb = true ∧ kindAt m (codeOf m k) = k := by
  have hi : m.idxOf k < 128 := hl ▸ List.idxOf_lt_length_of_mem hk
  have hn : (codeOf m k).toNat = 128 + m.idxOf k := by
    rw [codeOf, BitVec.toNat_ofNat, Nat.mod_eq_of_lt (by omega)]
  refine ⟨by rw [BitVec.msb_eq_decide]; simp; omega, ?_⟩
  have h7 : ((codeOf m k).extractLsb' 0 7).toNat = m.idxOf k := by
    rw [BitVec.extractLsb'_toNat, hn, Nat.shiftRight_zero]
    omega
  rw [kindAt, h7, List.getD_eq_getElem _ _ (hl ▸ hi), List.getElem_idxOf]

/-- A byte that selects a kind the map has once is that kind's code. -/
theorem codeOf_kindAt {m : OpMap} (hl : m.length = 128) {op : Byte} (hop : op.msb = true) {k : OpKind}
    (hk : kindAt m op = k) (hc : m.count k = 1) : codeOf m k = op := by
  have hop' : 128 ≤ op.toNat := by
    rw [BitVec.msb_eq_decide] at hop; simpa using hop
  have hlt := op.isLt
  have h7 : (op.extractLsb' 0 7).toNat = op.toNat - 128 := by
    rw [BitVec.extractLsb'_toNat, Nat.shiftRight_zero]
    omega
  have hi : op.toNat - 128 < m.length := by omega
  rw [kindAt, h7, List.getD_eq_getElem _ _ hi] at hk
  have hx : m.idxOf k = op.toNat - 128 := by
    have hk' : k ∈ m := hk ▸ List.getElem_mem hi
    have hj : m.idxOf k < m.length := List.idxOf_lt_length_of_mem hk'
    exact index_unique_of_count_one hc hj hi (List.getElem_idxOf hj) hk
  apply BitVec.eq_of_toNat_eq
  rw [codeOf, hx, BitVec.toNat_ofNat]
  omega

/-- An admissible binding has every instruction. -/
theorem mem_of_opmapWf {m : OpMap} (h : opmapWf m) {k : OpKind} (h1 : k ≠ .reservedNop) (h2 : k ≠ .illegal) : k ∈ m :=
  List.count_pos_iff.mp (by rw [h.2.1 k h1 h2]; exact Nat.one_pos)

/-- The opcode byte of a tier-2 instruction selects that instruction, under every admissible binding. -/
theorem select_codeOf {m : OpMap} (h : opmapWf m) {k : OpKind} (h1 : k ≠ .reservedNop) (h2 : k ≠ .illegal) :
    select m (codeOf m k) = shapeOf (codeOf m k) k := by
  obtain ⟨hm, hk⟩ := kindAt_codeOf h.1 (mem_of_opmapWf h h1 h2)
  rw [select, if_pos hm, hk]

/-- The default binding gives each instruction one code. -/
theorem defaultOpmap_count : ∀ k, k ≠ .reservedNop → k ≠ .illegal → defaultOpmap.count k = 1 := by
  intro k h1 h2
  cases k <;> first | rfl | contradiction

theorem defaultOpmap_wf : opmapWf defaultOpmap := ⟨rfl, defaultOpmap_count, rfl, rfl⟩

end Sys2Proof.Machine
end

