-- ==== Sys2Proof/Laws/State.lean ====
section
/-! SUPPORT. What each update of State leaves in each field, so that no later proof unfolds a record update, and that
an update of another field leaves what memory reads as. -/

namespace Sys2Proof.Machine

/-! ### `setA` writes `a` alone -/

@[simp] theorem State.setA_a (s : State) (v : Word) : (s.setA v).a = v := rfl
@[simp] theorem State.setA_b (s : State) (v : Word) : (s.setA v).b = s.b := rfl
@[simp] theorem State.setA_sp (s : State) (v : Word) : (s.setA v).sp = s.sp := rfl
@[simp] theorem State.setA_fp (s : State) (v : Word) : (s.setA v).fp = s.fp := rfl
@[simp] theorem State.setA_pc (s : State) (v : Word) : (s.setA v).pc = s.pc := rfl
@[simp] theorem State.setA_mem (s : State) (v : Word) : (s.setA v).mem = s.mem := rfl
@[simp] theorem State.setA_status (s : State) (v : Word) : (s.setA v).status = s.status := rfl
@[simp] theorem State.setA_input (s : State) (v : Word) : (s.setA v).input = s.input := rfl
@[simp] theorem State.setA_inputDraws (s : State) (v : Word) : (s.setA v).inputDraws = s.inputDraws := rfl
@[simp] theorem State.setA_events (s : State) (v : Word) : (s.setA v).events = s.events := rfl
@[simp] theorem State.setA_params (s : State) (v : Word) : (s.setA v).params = s.params := rfl

/-! ### `setB` writes `b` alone -/

@[simp] theorem State.setB_a (s : State) (v : Word) : (s.setB v).a = s.a := rfl
@[simp] theorem State.setB_b (s : State) (v : Word) : (s.setB v).b = v := rfl
@[simp] theorem State.setB_sp (s : State) (v : Word) : (s.setB v).sp = s.sp := rfl
@[simp] theorem State.setB_fp (s : State) (v : Word) : (s.setB v).fp = s.fp := rfl
@[simp] theorem State.setB_pc (s : State) (v : Word) : (s.setB v).pc = s.pc := rfl
@[simp] theorem State.setB_mem (s : State) (v : Word) : (s.setB v).mem = s.mem := rfl
@[simp] theorem State.setB_status (s : State) (v : Word) : (s.setB v).status = s.status := rfl
@[simp] theorem State.setB_input (s : State) (v : Word) : (s.setB v).input = s.input := rfl
@[simp] theorem State.setB_inputDraws (s : State) (v : Word) : (s.setB v).inputDraws = s.inputDraws := rfl
@[simp] theorem State.setB_events (s : State) (v : Word) : (s.setB v).events = s.events := rfl
@[simp] theorem State.setB_params (s : State) (v : Word) : (s.setB v).params = s.params := rfl

/-! ### `setSp` writes `sp` alone -/

@[simp] theorem State.setSp_a (s : State) (v : Word) : (s.setSp v).a = s.a := rfl
@[simp] theorem State.setSp_b (s : State) (v : Word) : (s.setSp v).b = s.b := rfl
@[simp] theorem State.setSp_sp (s : State) (v : Word) : (s.setSp v).sp = v := rfl
@[simp] theorem State.setSp_fp (s : State) (v : Word) : (s.setSp v).fp = s.fp := rfl
@[simp] theorem State.setSp_pc (s : State) (v : Word) : (s.setSp v).pc = s.pc := rfl
@[simp] theorem State.setSp_mem (s : State) (v : Word) : (s.setSp v).mem = s.mem := rfl
@[simp] theorem State.setSp_status (s : State) (v : Word) : (s.setSp v).status = s.status := rfl
@[simp] theorem State.setSp_input (s : State) (v : Word) : (s.setSp v).input = s.input := rfl
@[simp] theorem State.setSp_inputDraws (s : State) (v : Word) : (s.setSp v).inputDraws = s.inputDraws := rfl
@[simp] theorem State.setSp_events (s : State) (v : Word) : (s.setSp v).events = s.events := rfl
@[simp] theorem State.setSp_params (s : State) (v : Word) : (s.setSp v).params = s.params := rfl

/-! ### `setFp` writes `fp` alone -/

@[simp] theorem State.setFp_a (s : State) (v : Word) : (s.setFp v).a = s.a := rfl
@[simp] theorem State.setFp_b (s : State) (v : Word) : (s.setFp v).b = s.b := rfl
@[simp] theorem State.setFp_sp (s : State) (v : Word) : (s.setFp v).sp = s.sp := rfl
@[simp] theorem State.setFp_fp (s : State) (v : Word) : (s.setFp v).fp = v := rfl
@[simp] theorem State.setFp_pc (s : State) (v : Word) : (s.setFp v).pc = s.pc := rfl
@[simp] theorem State.setFp_mem (s : State) (v : Word) : (s.setFp v).mem = s.mem := rfl
@[simp] theorem State.setFp_status (s : State) (v : Word) : (s.setFp v).status = s.status := rfl
@[simp] theorem State.setFp_input (s : State) (v : Word) : (s.setFp v).input = s.input := rfl
@[simp] theorem State.setFp_inputDraws (s : State) (v : Word) : (s.setFp v).inputDraws = s.inputDraws := rfl
@[simp] theorem State.setFp_events (s : State) (v : Word) : (s.setFp v).events = s.events := rfl
@[simp] theorem State.setFp_params (s : State) (v : Word) : (s.setFp v).params = s.params := rfl

/-! ### `setPc` writes `pc` alone -/

@[simp] theorem State.setPc_a (s : State) (v : Word) : (s.setPc v).a = s.a := rfl
@[simp] theorem State.setPc_b (s : State) (v : Word) : (s.setPc v).b = s.b := rfl
@[simp] theorem State.setPc_sp (s : State) (v : Word) : (s.setPc v).sp = s.sp := rfl
@[simp] theorem State.setPc_fp (s : State) (v : Word) : (s.setPc v).fp = s.fp := rfl
@[simp] theorem State.setPc_pc (s : State) (v : Word) : (s.setPc v).pc = v := rfl
@[simp] theorem State.setPc_mem (s : State) (v : Word) : (s.setPc v).mem = s.mem := rfl
@[simp] theorem State.setPc_status (s : State) (v : Word) : (s.setPc v).status = s.status := rfl
@[simp] theorem State.setPc_input (s : State) (v : Word) : (s.setPc v).input = s.input := rfl
@[simp] theorem State.setPc_inputDraws (s : State) (v : Word) : (s.setPc v).inputDraws = s.inputDraws := rfl
@[simp] theorem State.setPc_events (s : State) (v : Word) : (s.setPc v).events = s.events := rfl
@[simp] theorem State.setPc_params (s : State) (v : Word) : (s.setPc v).params = s.params := rfl

/-! ### `setMem` writes `mem` alone -/

@[simp] theorem State.setMem_a (s : State) (m : Memory) : (s.setMem m).a = s.a := rfl
@[simp] theorem State.setMem_b (s : State) (m : Memory) : (s.setMem m).b = s.b := rfl
@[simp] theorem State.setMem_sp (s : State) (m : Memory) : (s.setMem m).sp = s.sp := rfl
@[simp] theorem State.setMem_fp (s : State) (m : Memory) : (s.setMem m).fp = s.fp := rfl
@[simp] theorem State.setMem_pc (s : State) (m : Memory) : (s.setMem m).pc = s.pc := rfl
@[simp] theorem State.setMem_mem (s : State) (m : Memory) : (s.setMem m).mem = m := rfl
@[simp] theorem State.setMem_status (s : State) (m : Memory) : (s.setMem m).status = s.status := rfl
@[simp] theorem State.setMem_input (s : State) (m : Memory) : (s.setMem m).input = s.input := rfl
@[simp] theorem State.setMem_inputDraws (s : State) (m : Memory) : (s.setMem m).inputDraws = s.inputDraws := rfl
@[simp] theorem State.setMem_events (s : State) (m : Memory) : (s.setMem m).events = s.events := rfl
@[simp] theorem State.setMem_params (s : State) (m : Memory) : (s.setMem m).params = s.params := rfl

/-! ### `setStatus` writes `status` alone -/

@[simp] theorem State.setStatus_a (s : State) (v : Status) : (s.setStatus v).a = s.a := rfl
@[simp] theorem State.setStatus_b (s : State) (v : Status) : (s.setStatus v).b = s.b := rfl
@[simp] theorem State.setStatus_sp (s : State) (v : Status) : (s.setStatus v).sp = s.sp := rfl
@[simp] theorem State.setStatus_fp (s : State) (v : Status) : (s.setStatus v).fp = s.fp := rfl
@[simp] theorem State.setStatus_pc (s : State) (v : Status) : (s.setStatus v).pc = s.pc := rfl
@[simp] theorem State.setStatus_mem (s : State) (v : Status) : (s.setStatus v).mem = s.mem := rfl
@[simp] theorem State.setStatus_status (s : State) (v : Status) : (s.setStatus v).status = v := rfl
@[simp] theorem State.setStatus_input (s : State) (v : Status) : (s.setStatus v).input = s.input := rfl
@[simp] theorem State.setStatus_inputDraws (s : State) (v : Status) : (s.setStatus v).inputDraws = s.inputDraws := rfl
@[simp] theorem State.setStatus_events (s : State) (v : Status) : (s.setStatus v).events = s.events := rfl
@[simp] theorem State.setStatus_params (s : State) (v : Status) : (s.setStatus v).params = s.params := rfl

/-! ### `setInput` writes `input` alone -/

@[simp] theorem State.setInput_a (s : State) (l : List HostAnswer) : (s.setInput l).a = s.a := rfl
@[simp] theorem State.setInput_b (s : State) (l : List HostAnswer) : (s.setInput l).b = s.b := rfl
@[simp] theorem State.setInput_sp (s : State) (l : List HostAnswer) : (s.setInput l).sp = s.sp := rfl
@[simp] theorem State.setInput_fp (s : State) (l : List HostAnswer) : (s.setInput l).fp = s.fp := rfl
@[simp] theorem State.setInput_pc (s : State) (l : List HostAnswer) : (s.setInput l).pc = s.pc := rfl
@[simp] theorem State.setInput_mem (s : State) (l : List HostAnswer) : (s.setInput l).mem = s.mem := rfl
@[simp] theorem State.setInput_status (s : State) (l : List HostAnswer) : (s.setInput l).status = s.status := rfl
@[simp] theorem State.setInput_input (s : State) (l : List HostAnswer) : (s.setInput l).input = l := rfl
@[simp] theorem State.setInput_inputDraws (s : State) (l : List HostAnswer) : (s.setInput l).inputDraws = s.inputDraws := rfl
@[simp] theorem State.setInput_events (s : State) (l : List HostAnswer) : (s.setInput l).events = s.events := rfl
@[simp] theorem State.setInput_params (s : State) (l : List HostAnswer) : (s.setInput l).params = s.params := rfl

/-! ### `setInputDraws` writes `inputDraws` alone -/

@[simp] theorem State.setInputDraws_a (s : State) (n : Nat) : (s.setInputDraws n).a = s.a := rfl
@[simp] theorem State.setInputDraws_b (s : State) (n : Nat) : (s.setInputDraws n).b = s.b := rfl
@[simp] theorem State.setInputDraws_sp (s : State) (n : Nat) : (s.setInputDraws n).sp = s.sp := rfl
@[simp] theorem State.setInputDraws_fp (s : State) (n : Nat) : (s.setInputDraws n).fp = s.fp := rfl
@[simp] theorem State.setInputDraws_pc (s : State) (n : Nat) : (s.setInputDraws n).pc = s.pc := rfl
@[simp] theorem State.setInputDraws_mem (s : State) (n : Nat) : (s.setInputDraws n).mem = s.mem := rfl
@[simp] theorem State.setInputDraws_status (s : State) (n : Nat) : (s.setInputDraws n).status = s.status := rfl
@[simp] theorem State.setInputDraws_input (s : State) (n : Nat) : (s.setInputDraws n).input = s.input := rfl
@[simp] theorem State.setInputDraws_inputDraws (s : State) (n : Nat) : (s.setInputDraws n).inputDraws = n := rfl
@[simp] theorem State.setInputDraws_events (s : State) (n : Nat) : (s.setInputDraws n).events = s.events := rfl
@[simp] theorem State.setInputDraws_params (s : State) (n : Nat) : (s.setInputDraws n).params = s.params := rfl

/-! ### `setParams` writes `params` alone -/

@[simp] theorem State.setParams_a (s : State) (p : Config.Params) : (s.setParams p).a = s.a := rfl
@[simp] theorem State.setParams_b (s : State) (p : Config.Params) : (s.setParams p).b = s.b := rfl
@[simp] theorem State.setParams_sp (s : State) (p : Config.Params) : (s.setParams p).sp = s.sp := rfl
@[simp] theorem State.setParams_fp (s : State) (p : Config.Params) : (s.setParams p).fp = s.fp := rfl
@[simp] theorem State.setParams_pc (s : State) (p : Config.Params) : (s.setParams p).pc = s.pc := rfl
@[simp] theorem State.setParams_mem (s : State) (p : Config.Params) : (s.setParams p).mem = s.mem := rfl
@[simp] theorem State.setParams_status (s : State) (p : Config.Params) : (s.setParams p).status = s.status := rfl
@[simp] theorem State.setParams_input (s : State) (p : Config.Params) : (s.setParams p).input = s.input := rfl
@[simp] theorem State.setParams_inputDraws (s : State) (p : Config.Params) : (s.setParams p).inputDraws = s.inputDraws := rfl
@[simp] theorem State.setParams_events (s : State) (p : Config.Params) : (s.setParams p).events = s.events := rfl
@[simp] theorem State.setParams_params (s : State) (p : Config.Params) : (s.setParams p).params = p := rfl

/-! ### `emit` writes `events` alone -/

@[simp] theorem State.emit_a (s : State) (e : Event) : (s.emit e).a = s.a := rfl
@[simp] theorem State.emit_b (s : State) (e : Event) : (s.emit e).b = s.b := rfl
@[simp] theorem State.emit_sp (s : State) (e : Event) : (s.emit e).sp = s.sp := rfl
@[simp] theorem State.emit_fp (s : State) (e : Event) : (s.emit e).fp = s.fp := rfl
@[simp] theorem State.emit_pc (s : State) (e : Event) : (s.emit e).pc = s.pc := rfl
@[simp] theorem State.emit_mem (s : State) (e : Event) : (s.emit e).mem = s.mem := rfl
@[simp] theorem State.emit_status (s : State) (e : Event) : (s.emit e).status = s.status := rfl
@[simp] theorem State.emit_input (s : State) (e : Event) : (s.emit e).input = s.input := rfl
@[simp] theorem State.emit_inputDraws (s : State) (e : Event) : (s.emit e).inputDraws = s.inputDraws := rfl
@[simp] theorem State.emit_events (s : State) (e : Event) : (s.emit e).events = s.events ++ [e] := rfl
@[simp] theorem State.emit_params (s : State) (e : Event) : (s.emit e).params = s.params := rfl

/-! ### `advance` writes `pc` alone -/

@[simp] theorem State.advance_a (s : State) (n : Nat) : (s.advance n).a = s.a := rfl
@[simp] theorem State.advance_b (s : State) (n : Nat) : (s.advance n).b = s.b := rfl
@[simp] theorem State.advance_sp (s : State) (n : Nat) : (s.advance n).sp = s.sp := rfl
@[simp] theorem State.advance_fp (s : State) (n : Nat) : (s.advance n).fp = s.fp := rfl
@[simp] theorem State.advance_pc (s : State) (n : Nat) : (s.advance n).pc = s.pc + BitVec.ofNat 16 n := rfl
@[simp] theorem State.advance_mem (s : State) (n : Nat) : (s.advance n).mem = s.mem := rfl
@[simp] theorem State.advance_status (s : State) (n : Nat) : (s.advance n).status = s.status := rfl
@[simp] theorem State.advance_input (s : State) (n : Nat) : (s.advance n).input = s.input := rfl
@[simp] theorem State.advance_inputDraws (s : State) (n : Nat) : (s.advance n).inputDraws = s.inputDraws := rfl
@[simp] theorem State.advance_events (s : State) (n : Nat) : (s.advance n).events = s.events := rfl
@[simp] theorem State.advance_params (s : State) (n : Nat) : (s.advance n).params = s.params := rfl

/-! ### `writeByte` writes `mem` alone -/

@[simp] theorem State.writeByte_a (s : State) (x : Word) (v : Byte) : (s.writeByte x v).a = s.a := rfl
@[simp] theorem State.writeByte_b (s : State) (x : Word) (v : Byte) : (s.writeByte x v).b = s.b := rfl
@[simp] theorem State.writeByte_sp (s : State) (x : Word) (v : Byte) : (s.writeByte x v).sp = s.sp := rfl
@[simp] theorem State.writeByte_fp (s : State) (x : Word) (v : Byte) : (s.writeByte x v).fp = s.fp := rfl
@[simp] theorem State.writeByte_pc (s : State) (x : Word) (v : Byte) : (s.writeByte x v).pc = s.pc := rfl
@[simp] theorem State.writeByte_mem (s : State) (x : Word) (v : Byte) : (s.writeByte x v).mem = s.mem.write x v := rfl
@[simp] theorem State.writeByte_status (s : State) (x : Word) (v : Byte) : (s.writeByte x v).status = s.status := rfl
@[simp] theorem State.writeByte_input (s : State) (x : Word) (v : Byte) : (s.writeByte x v).input = s.input := rfl
@[simp] theorem State.writeByte_inputDraws (s : State) (x : Word) (v : Byte) : (s.writeByte x v).inputDraws = s.inputDraws := rfl
@[simp] theorem State.writeByte_events (s : State) (x : Word) (v : Byte) : (s.writeByte x v).events = s.events := rfl
@[simp] theorem State.writeByte_params (s : State) (x : Word) (v : Byte) : (s.writeByte x v).params = s.params := rfl

/-! ### `writeWord` writes `mem` alone -/

@[simp] theorem State.writeWord_a (s : State) (x v : Word) : (s.writeWord x v).a = s.a := rfl
@[simp] theorem State.writeWord_b (s : State) (x v : Word) : (s.writeWord x v).b = s.b := rfl
@[simp] theorem State.writeWord_sp (s : State) (x v : Word) : (s.writeWord x v).sp = s.sp := rfl
@[simp] theorem State.writeWord_fp (s : State) (x v : Word) : (s.writeWord x v).fp = s.fp := rfl
@[simp] theorem State.writeWord_pc (s : State) (x v : Word) : (s.writeWord x v).pc = s.pc := rfl
@[simp] theorem State.writeWord_mem (s : State) (x v : Word) : (s.writeWord x v).mem = s.mem.writeWord x v := rfl
@[simp] theorem State.writeWord_status (s : State) (x v : Word) : (s.writeWord x v).status = s.status := rfl
@[simp] theorem State.writeWord_input (s : State) (x v : Word) : (s.writeWord x v).input = s.input := rfl
@[simp] theorem State.writeWord_inputDraws (s : State) (x v : Word) : (s.writeWord x v).inputDraws = s.inputDraws := rfl
@[simp] theorem State.writeWord_events (s : State) (x v : Word) : (s.writeWord x v).events = s.events := rfl
@[simp] theorem State.writeWord_params (s : State) (x v : Word) : (s.writeWord x v).params = s.params := rfl

/-! ### `push` -/

@[simp] theorem State.push_a (s : State) (v : Word) : (s.push v).a = s.a := rfl
@[simp] theorem State.push_b (s : State) (v : Word) : (s.push v).b = s.b := rfl
@[simp] theorem State.push_sp (s : State) (v : Word) : (s.push v).sp = s.sp - 2 := rfl
@[simp] theorem State.push_fp (s : State) (v : Word) : (s.push v).fp = s.fp := rfl
@[simp] theorem State.push_pc (s : State) (v : Word) : (s.push v).pc = s.pc := rfl
@[simp] theorem State.push_mem (s : State) (v : Word) : (s.push v).mem = s.mem.writeWord (s.sp - 1) v := rfl
@[simp] theorem State.push_status (s : State) (v : Word) : (s.push v).status = s.status := rfl
@[simp] theorem State.push_input (s : State) (v : Word) : (s.push v).input = s.input := rfl
@[simp] theorem State.push_inputDraws (s : State) (v : Word) : (s.push v).inputDraws = s.inputDraws := rfl
@[simp] theorem State.push_events (s : State) (v : Word) : (s.push v).events = s.events := rfl
@[simp] theorem State.push_params (s : State) (v : Word) : (s.push v).params = s.params := rfl

/-! ### `drop` -/

@[simp] theorem State.drop_a (s : State) : s.drop.a = s.a := rfl
@[simp] theorem State.drop_b (s : State) : s.drop.b = s.b := rfl
@[simp] theorem State.drop_sp (s : State) : s.drop.sp = s.sp + 2 := rfl
@[simp] theorem State.drop_fp (s : State) : s.drop.fp = s.fp := rfl
@[simp] theorem State.drop_pc (s : State) : s.drop.pc = s.pc := rfl
@[simp] theorem State.drop_mem (s : State) : s.drop.mem = s.mem := rfl
@[simp] theorem State.drop_status (s : State) : s.drop.status = s.status := rfl
@[simp] theorem State.drop_input (s : State) : s.drop.input = s.input := rfl
@[simp] theorem State.drop_inputDraws (s : State) : s.drop.inputDraws = s.inputDraws := rfl
@[simp] theorem State.drop_events (s : State) : s.drop.events = s.events := rfl
@[simp] theorem State.drop_params (s : State) : s.drop.params = s.params := rfl

/-! ### `call` -/

@[simp] theorem State.call_a (s : State) (t : Word) : (s.call t).a = s.a := rfl
@[simp] theorem State.call_b (s : State) (t : Word) : (s.call t).b = s.b := rfl
@[simp] theorem State.call_pc (s : State) (t : Word) : (s.call t).pc = t := rfl
@[simp] theorem State.call_status (s : State) (t : Word) : (s.call t).status = s.status := rfl
@[simp] theorem State.call_input (s : State) (t : Word) : (s.call t).input = s.input := rfl
@[simp] theorem State.call_inputDraws (s : State) (t : Word) : (s.call t).inputDraws = s.inputDraws := rfl
@[simp] theorem State.call_events (s : State) (t : Word) : (s.call t).events = s.events := rfl
@[simp] theorem State.call_params (s : State) (t : Word) : (s.call t).params = s.params := rfl

/-! ### `trace` -/

@[simp] theorem State.trace_a (s : State) : s.trace.a = s.a := rfl
@[simp] theorem State.trace_b (s : State) : s.trace.b = s.b := rfl
@[simp] theorem State.trace_sp (s : State) : s.trace.sp = s.sp := rfl
@[simp] theorem State.trace_fp (s : State) : s.trace.fp = s.fp := rfl
@[simp] theorem State.trace_pc (s : State) : s.trace.pc = s.pc := rfl
@[simp] theorem State.trace_mem (s : State) : s.trace.mem = s.mem := rfl
@[simp] theorem State.trace_status (s : State) : s.trace.status = s.status := rfl
@[simp] theorem State.trace_input (s : State) : s.trace.input = s.input := rfl
@[simp] theorem State.trace_inputDraws (s : State) : s.trace.inputDraws = s.inputDraws := rfl
@[simp] theorem State.trace_events (s : State) : s.trace.events = s.events ++ [.trace s.a s.b s.pc s.sp s.fp] := rfl
@[simp] theorem State.trace_params (s : State) : s.trace.params = s.params := rfl

@[simp] theorem State.call_sp (s : State) (t : Word) : (s.call t).sp = s.sp - 4 := by
  have h : s.sp - 2 - 2 = s.sp - 4 := by bv_omega
  exact h

@[simp] theorem State.call_fp (s : State) (t : Word) : (s.call t).fp = s.sp - 3 := by
  have h : s.sp - 2 - 2 + 1 = s.sp - 3 := by bv_omega
  exact h

/-! ### A read of memory after an update of another field -/

@[simp] theorem State.setA_readByte (s : State) (v : Word) (y : Word) : (s.setA v).readByte y = s.readByte y := rfl
@[simp] theorem State.setA_readWord (s : State) (v : Word) (y : Word) : (s.setA v).readWord y = s.readWord y := rfl
@[simp] theorem State.setB_readByte (s : State) (v : Word) (y : Word) : (s.setB v).readByte y = s.readByte y := rfl
@[simp] theorem State.setB_readWord (s : State) (v : Word) (y : Word) : (s.setB v).readWord y = s.readWord y := rfl
@[simp] theorem State.setSp_readByte (s : State) (v : Word) (y : Word) : (s.setSp v).readByte y = s.readByte y := rfl
@[simp] theorem State.setSp_readWord (s : State) (v : Word) (y : Word) : (s.setSp v).readWord y = s.readWord y := rfl
@[simp] theorem State.setFp_readByte (s : State) (v : Word) (y : Word) : (s.setFp v).readByte y = s.readByte y := rfl
@[simp] theorem State.setFp_readWord (s : State) (v : Word) (y : Word) : (s.setFp v).readWord y = s.readWord y := rfl
@[simp] theorem State.setPc_readByte (s : State) (v : Word) (y : Word) : (s.setPc v).readByte y = s.readByte y := rfl
@[simp] theorem State.setPc_readWord (s : State) (v : Word) (y : Word) : (s.setPc v).readWord y = s.readWord y := rfl
@[simp] theorem State.setStatus_readByte (s : State) (v : Status) (y : Word) : (s.setStatus v).readByte y = s.readByte y := rfl
@[simp] theorem State.setStatus_readWord (s : State) (v : Status) (y : Word) : (s.setStatus v).readWord y = s.readWord y := rfl
@[simp] theorem State.setInput_readByte (s : State) (l : List HostAnswer) (y : Word) : (s.setInput l).readByte y = s.readByte y := rfl
@[simp] theorem State.setInput_readWord (s : State) (l : List HostAnswer) (y : Word) : (s.setInput l).readWord y = s.readWord y := rfl
@[simp] theorem State.setInputDraws_readByte (s : State) (n : Nat) (y : Word) : (s.setInputDraws n).readByte y = s.readByte y := rfl
@[simp] theorem State.setInputDraws_readWord (s : State) (n : Nat) (y : Word) : (s.setInputDraws n).readWord y = s.readWord y := rfl
@[simp] theorem State.setParams_readByte (s : State) (p : Config.Params) (y : Word) :
    (s.setParams p).readByte y = s.readByte y := rfl
@[simp] theorem State.setParams_readWord (s : State) (p : Config.Params) (y : Word) :
    (s.setParams p).readWord y = s.readWord y := rfl
@[simp] theorem State.emit_readByte (s : State) (e : Event) (y : Word) : (s.emit e).readByte y = s.readByte y := rfl
@[simp] theorem State.emit_readWord (s : State) (e : Event) (y : Word) : (s.emit e).readWord y = s.readWord y := rfl
@[simp] theorem State.advance_readByte (s : State) (n : Nat) (y : Word) : (s.advance n).readByte y = s.readByte y := rfl
@[simp] theorem State.advance_readWord (s : State) (n : Nat) (y : Word) : (s.advance n).readWord y = s.readWord y := rfl

/-- Two states are equal when every field is. -/
theorem State.ext_fields {s t : State} (ha : s.a = t.a) (hb : s.b = t.b) (hsp : s.sp = t.sp) (hfp : s.fp = t.fp)
    (hpc : s.pc = t.pc) (hm : s.mem = t.mem) (hst : s.status = t.status) (hi : s.input = t.input)
    (hd : s.inputDraws = t.inputDraws) (he : s.events = t.events) (hp : s.params = t.params) : s = t := by
  cases s; cases t; simp_all

end Sys2Proof.Machine
end

