-- ==== Sys2Proof/Laws/Ops.lean ====
section
/-! SUPPORT. For each shared operation, one lemma that says everything it can do. A proof about an instruction cites
these and does not unfold the operation. -/

namespace Sys2Proof.Machine

/-! ## Memory of the machine -/

theorem State.writeByte_readByte (s : State) (x y : Word) (v : Byte) :
    (s.writeByte x v).readByte y = storedByte s.readByte x v y := Memory.read_write _ _ _ _

theorem State.writeWord_readByte (s : State) (x y v : Word) :
    (s.writeWord x v).readByte y = storedWord s.readByte x v y := by
  simp [State.writeWord, State.readByte, State.setMem, Memory.writeWord, storedWord, storedByte, Memory.read_write]

theorem State.readWord_eq_wordOf (s : State) (x : Word) : s.readWord x = wordOf s.readByte x := rfl

/-- A word read depends on the cells only. -/
theorem wordOf_congr {rd rd' : Word → Byte} (h : ∀ x, rd x = rd' x) (x : Word) : wordOf rd x = wordOf rd' x := by
  simp [wordOf, h]

/-- A stored word reads back, at every address (R41, R42). -/
theorem wordOf_storedWord (rd : Word → Byte) (x v : Word) : wordOf (storedWord rd x v) x = v := by
  have h : x ≠ x + 1#16 := by bv_omega
  simp [wordOf, storedWord, storedByte, joinBytes_low_high]

/-- A word elsewhere reads as before a word is stored (R41, R42). -/
theorem wordOf_storedWord_of_ne (rd : Word → Byte) {x y : Word} (v : Word)
    (h0 : y ≠ x) (h1 : y ≠ x + 1) (h2 : y + 1 ≠ x) : wordOf (storedWord rd x v) y = wordOf rd y := by
  have h3 : y + 1 ≠ x + 1 := by bv_omega
  simp only [wordOf, storedWord, storedByte, h0, h1, h2, h3, if_false]

/-! ## Stack and frames: what each leaves in every field -/

theorem State.push_fields (s : State) (v : Word) :
    { s.push v with mem := s.mem } = { s with sp := s.sp - 2 } := rfl

theorem State.push_readByte (s : State) (v y : Word) :
    (s.push v).readByte y = storedWord s.readByte (s.sp - 1) v y := by
  simp [State.push, State.writeWord_readByte]

theorem State.drop_eq (s : State) : s.drop = { s with sp := s.sp + 2 } := rfl

theorem State.call_fields (s : State) (target : Word) :
    { s.call target with mem := s.mem } = { s with sp := s.sp - 4, fp := s.sp - 3, pc := target } := by
  have h1 : s.sp - 2 - 2 = s.sp - 4 := by bv_omega
  have h2 : s.sp - 4 + 1 = s.sp - 3 := by bv_omega
  rw [← h2, ← h1]
  rfl

theorem State.call_readByte (s : State) (target y : Word) :
    (s.call target).readByte y = storedWord (storedWord s.readByte (s.sp - 1) s.pc) (s.sp - 3) s.fp y := by
  have h : s.sp - 2 - 1 = s.sp - 3 := by bv_omega
  have hp : ∀ x, (s.push s.pc).readByte x = storedWord s.readByte (s.sp - 1) s.pc x := s.push_readByte s.pc
  have e : (s.call target).readByte y = ((s.push s.pc).push s.fp).readByte y := rfl
  rw [e, State.push_readByte]
  have hsp : (s.push s.pc).sp = s.sp - 2 := rfl
  rw [hsp, h]
  simp [storedWord, storedByte, hp]

theorem State.ret_eq (s : State) :
    s.ret = { s with sp := s.fp + 3, fp := s.readWord s.fp, pc := s.readWord (s.fp + 2) } := by
  have h1 : s.fp - 1 + 1 = s.fp := by bv_omega
  have h2 : s.fp - 1 + 2 + 1 = s.fp + 2 := by bv_omega
  have h3 : s.fp - 1 + 2 + 2 = s.fp + 3 := by bv_omega
  have e : s.ret = { s with
      sp := s.fp - 1 + 2 + 2, fp := s.readWord (s.fp - 1 + 1), pc := s.readWord (s.fp - 1 + 2 + 1) } := rfl
  rw [e, h1, h2, h3]

/-! ## Host and exceptional conditions -/

/-- Everything a draw of host input can do (R260). -/
theorem State.drawInput_cases {s t : State} {v : Word} (h : s.drawInput = some (v, t)) :
    (s.input = [] ∧ v = Config.endOfInput s.inputDraws ∧ t = { s with inputDraws := s.inputDraws + 1 }) ∨
    ∃ b rest, s.input = .byte b :: rest ∧ v = zext16 b ∧ t = { s with input := rest } := by
  unfold State.drawInput at h
  split at h
  · rename_i e
    simp only [Option.some.injEq, Prod.mk.injEq] at h
    exact .inl ⟨e, h.1.symm, h.2.symm⟩
  · rename_i b rest e
    simp only [Option.some.injEq, Prod.mk.injEq] at h
    exact .inr ⟨b, rest, e, h.1.symm, h.2.symm⟩
  · simp at h

/-- A draw has no answer exactly when the host never answers (R321). -/
theorem State.drawInput_eq_none {s : State} : s.drawInput = none ↔ ∃ rest, s.input = .silent :: rest := by
  unfold State.drawInput
  split <;> simp_all

theorem State.raiseDivideByZero_eq (s : State) (opaddr : Word) (op : Byte) :
    s.raiseDivideByZero opaddr op =
      { s with
        status := .faulted (.divideByZero opaddr op)
        events := s.events ++ [.fault (.divideByZero opaddr op)] } := rfl

theorem State.reportIllegal_eq (s : State) (op : Byte) (opaddr : Word) :
    s.reportIllegal op opaddr = { s with events := s.events ++ [.illegalOpcode op opaddr] } := rfl

theorem State.trace_eq (s : State) :
    s.trace = { s with events := s.events ++ [.trace s.a s.b s.pc s.sp s.fp] } := rfl

/-! ## Shared meanings -/

/-- Everything a divide or modulo can do (R184 to R187, R196). -/
theorem divide_cases (f : Word → Word → Word) (g : Word → Word) (s : State) :
    (s.b ≠ 0 ∧ divide f g s = .next { s with a := f s.a s.b, pc := s.pc + 1 }) ∨
    (s.b = 0 ∧ s.params.div0 = .value ∧ divide f g s = .next { s with a := g s.a, pc := s.pc + 1 }) ∨
    (s.b = 0 ∧ s.params.div0 = .fault ∧ divide f g s = .next
      { s with
        pc := s.pc + 1
        status := .faulted (.divideByZero s.pc (s.readByte s.pc))
        events := s.events ++ [.fault (.divideByZero s.pc (s.readByte s.pc))] }) := by
  unfold divide
  split
  · split
    · exact .inr (.inr ⟨‹_›, ‹_›, rfl⟩)
    · exact .inr (.inl ⟨‹_›, ‹_›, rfl⟩)
  · exact .inl ⟨‹_›, rfl⟩

/-- A jump either goes to its target or falls through (R231 to R236). -/
theorem jumpIf_eq (taken : Bool) (len : Nat) (target : Word) (s : State) :
    jumpIf taken len target s =
      .next { s with pc := if taken then target else s.pc + BitVec.ofNat 16 len } := by
  cases taken <;> rfl

/-- DCOUNT's load, through the cells it reads (R283). -/
theorem State.load_eq (s : State) (st : DcStep) (x : Word) :
    s.load st x = if dcIsByte st then zext16 (s.readByte x) else wordOf s.readByte x := rfl

/-- DCOUNT's store writes memory alone, one cell or two (R283). -/
theorem State.store_eq (s : State) (st : DcStep) (x v : Word) :
    s.store st x v = s.setMem (if dcIsByte st then s.mem.write x (lowByte v) else s.mem.writeWord x v) := by
  unfold State.store; split <;> rfl

theorem State.store_readByte (s : State) (st : DcStep) (x v y : Word) :
    (s.store st x v).readByte y =
      (if dcIsByte st then storedByte s.readByte x (lowByte v) else storedWord s.readByte x v) y := by
  unfold State.store
  split
  · exact State.writeByte_readByte _ _ _ _
  · exact State.writeWord_readByte _ _ _ _

/-- The selector's first match, with the pairs before it different (R239). -/
theorem switchTarget_of_match (sel t dflt : Word) (before after : List (Word × Word)) (h : ∀ p ∈ before, p.1 ≠ sel) :
    switchTarget sel dflt (before ++ (sel, t) :: after) = t := by
  induction before with
  | nil => simp [switchTarget]
  | cons p ps ih =>
    have := h p (by simp)
    simp only [List.cons_append, switchTarget]
    rw [if_neg (fun e => this e.symm)]
    exact ih (fun q hq => h q (by simp [hq]))

/-- No pair matches: the default (R239). -/
theorem switchTarget_of_no_match (sel dflt : Word) (pairs : List (Word × Word)) (h : ∀ p ∈ pairs, p.1 ≠ sel) :
    switchTarget sel dflt pairs = dflt := by
  induction pairs with
  | nil => rfl
  | cons p ps ih =>
    have := h p (by simp)
    simp only [switchTarget]
    rw [if_neg (fun e => this e.symm)]
    exact ih (fun q hq => h q (by simp [hq]))

/-! ## What keeps the canonical form -/

theorem State.push_wf {s : State} (h : s.mem.wf) (v : Word) : (s.push v).mem.wf := Memory.wf_writeWord h _ _

theorem State.call_wf {s : State} (h : s.mem.wf) (target : Word) : (s.call target).mem.wf :=
  State.push_wf (State.push_wf h _) _

theorem State.store_wf {s : State} (h : s.mem.wf) (st : DcStep) (x v : Word) : (s.store st x v).mem.wf := by
  unfold State.store
  split
  · exact Memory.wf_write h _ _
  · exact Memory.wf_writeWord h _ _

/-! ## The host's reset -/

/-- Everything the host's reset does (R340, R343). -/
theorem State.hostReset_eq (s : State) (initMem : Word → Byte) (image : List Byte) :
    s.hostReset initMem image =
      { s with
        a := 0x0000, b := 0x0000, sp := 0xFFFF, fp := 0xFFFF, pc := 0x0000
        mem := resetMemory initMem image
        status := .running } := rfl

theorem State.hostReset_mem (s : State) (initMem : Word → Byte) (image : List Byte) :
    (s.hostReset initMem image).mem = resetMemory initMem image := by rw [State.hostReset_eq]

theorem State.hostReset_readByte (s : State) (initMem : Word → Byte) (image : List Byte) (x : Word) :
    (s.hostReset initMem image).readByte x = resetCell initMem image x.toNat := by
  rw [State.readByte, State.hostReset_mem, resetMemory_read]

/-! ## Fetch -/

theorem State.bytesFrom_length (s : State) (x : Word) (n : Nat) : (s.bytesFrom x n).length = n := by
  induction n generalizing x with
  | zero => rfl
  | succ n ih => simp [State.bytesFrom, ih]

theorem State.bytesFrom_add (s : State) (x : Word) (m n : Nat) :
    s.bytesFrom x (m + n) = s.bytesFrom x m ++ s.bytesFrom (x + BitVec.ofNat 16 m) n := by
  induction m generalizing x with
  | zero => simp [State.bytesFrom]
  | succ m ih =>
    have e : x + 1 + BitVec.ofNat 16 m = x + BitVec.ofNat 16 (m + 1) := by bv_omega
    rw [Nat.succ_add, State.bytesFrom, ih, e]
    rfl

end Sys2Proof.Machine
end

