-- ==== Sys2Proof/Laws/PerInstr.lean ====
section
/-! SUPPORT. The family `EncodeLength`: the encoding of every instruction has the length of the table's `len` column
(spec/30_encoding.md R71, R72). -/

namespace Sys2Proof.Laws

theorem wordBytes_length (w : Word) : (wordBytes w).length = 2 := rfl

theorem pairBytes_length (ps : List (Word × Word)) : (pairBytes ps).length = 4 * ps.length := by
  induction ps with
  | nil => rfl
  | cons p ps ih =>
    obtain ⟨v, t⟩ := p
    simp only [pairBytes, List.length_append, wordBytes_length, ih, List.length_cons]
    omega

namespace EncodeLength

/-- Under every binding of `OPMAP` the encoding has as many bytes as the length column says. -/
def Statement (i : Instr) : Prop := ∀ m, (encode m i).length = i.length

theorem ldaFast (n : Nibble) : Statement (.ldaFast n) := fun _ => rfl
theorem ldbFast (n : Nibble) : Statement (.ldbFast n) := fun _ => rfl
theorem pushFast (n : Nibble) : Statement (.pushFast n) := fun _ => rfl
theorem staFast (n : Nibble) : Statement (.staFast n) := fun _ => rfl
theorem ldaI4 (n : Nibble) : Statement (.ldaI4 n) := fun _ => rfl
theorem ldbI4 (n : Nibble) : Statement (.ldbI4 n) := fun _ => rfl
theorem pushI4 (n : Nibble) : Statement (.pushI4 n) := fun _ => rfl
theorem addI4 (n : Nibble) : Statement (.addI4 n) := fun _ => rfl
theorem ldaNear (d8 : Byte) : Statement (.ldaNear d8) := fun _ => rfl
theorem ldaFar (d16 : Word) : Statement (.ldaFar d16) := fun _ => rfl
theorem ldaAbs (a16 : Word) : Statement (.ldaAbs a16) := fun _ => rfl
theorem ldbNear (d8 : Byte) : Statement (.ldbNear d8) := fun _ => rfl
theorem ldbFar (d16 : Word) : Statement (.ldbFar d16) := fun _ => rfl
theorem ldbAbs (a16 : Word) : Statement (.ldbAbs a16) := fun _ => rfl
theorem staNear (d8 : Byte) : Statement (.staNear d8) := fun _ => rfl
theorem staFar (d16 : Word) : Statement (.staFar d16) := fun _ => rfl
theorem staAbs (a16 : Word) : Statement (.staAbs a16) := fun _ => rfl
theorem ldabNear (d8 : Byte) : Statement (.ldabNear d8) := fun _ => rfl
theorem ldabFar (d16 : Word) : Statement (.ldabFar d16) := fun _ => rfl
theorem ldabAbs (a16 : Word) : Statement (.ldabAbs a16) := fun _ => rfl
theorem stabNear (d8 : Byte) : Statement (.stabNear d8) := fun _ => rfl
theorem stabFar (d16 : Word) : Statement (.stabFar d16) := fun _ => rfl
theorem stabAbs (a16 : Word) : Statement (.stabAbs a16) := fun _ => rfl
theorem nop (op : Byte) : Statement (.nop op) := fun _ => rfl
theorem illegal (op : Byte) : Statement (.illegal op) := fun _ => rfl
theorem ldaS8 (imm8 : Byte) : Statement (.ldaS8 imm8) := fun _ => rfl
theorem ldaU8 (imm8 : Byte) : Statement (.ldaU8 imm8) := fun _ => rfl
theorem ldaI16 (imm16 : Word) : Statement (.ldaI16 imm16) := fun _ => rfl
theorem ldbS8 (imm8 : Byte) : Statement (.ldbS8 imm8) := fun _ => rfl
theorem ldbU8 (imm8 : Byte) : Statement (.ldbU8 imm8) := fun _ => rfl
theorem ldbI16 (imm16 : Word) : Statement (.ldbI16 imm16) := fun _ => rfl
theorem deref : Statement .deref := fun _ => rfl
theorem derefb : Statement .derefb := fun _ => rfl
theorem popstore : Statement .popstore := fun _ => rfl
theorem popstoreb : Statement .popstoreb := fun _ => rfl
theorem pusha : Statement .pusha := fun _ => rfl
theorem pushb : Statement .pushb := fun _ => rfl
theorem popa : Statement .popa := fun _ => rfl
theorem popb : Statement .popb := fun _ => rfl
theorem getsp : Statement .getsp := fun _ => rfl
theorem setsp : Statement .setsp := fun _ => rfl
theorem allocz (count8 : Byte) : Statement (.allocz count8) := fun _ => rfl
theorem call (a16 : Word) : Statement (.call a16) := fun _ => rfl
theorem callalloc (a16 : Word) (alloc8 : Byte) : Statement (.callalloc a16 alloc8) := fun _ => rfl
theorem calla : Statement .calla := fun _ => rfl
theorem ret : Statement .ret := fun _ => rfl
theorem add : Statement .add := fun _ => rfl
theorem sub : Statement .sub := fun _ => rfl
theorem rsub : Statement .rsub := fun _ => rfl
theorem mul : Statement .mul := fun _ => rfl
theorem divu : Statement .divu := fun _ => rfl
theorem divs : Statement .divs := fun _ => rfl
theorem modu : Statement .modu := fun _ => rfl
theorem mods : Statement .mods := fun _ => rfl
theorem neg : Statement .neg := fun _ => rfl
theorem not : Statement .not := fun _ => rfl
theorem and : Statement .and := fun _ => rfl
theorem or : Statement .or := fun _ => rfl
theorem xor : Statement .xor := fun _ => rfl
theorem shl : Statement .shl := fun _ => rfl
theorem shr : Statement .shr := fun _ => rfl
theorem asr : Statement .asr := fun _ => rfl
theorem eq : Statement .eq := fun _ => rfl
theorem ne : Statement .ne := fun _ => rfl
theorem ult : Statement .ult := fun _ => rfl
theorem ule : Statement .ule := fun _ => rfl
theorem ugt : Statement .ugt := fun _ => rfl
theorem uge : Statement .uge := fun _ => rfl
theorem slt : Statement .slt := fun _ => rfl
theorem sle : Statement .sle := fun _ => rfl
theorem sgt : Statement .sgt := fun _ => rfl
theorem sge : Statement .sge := fun _ => rfl
theorem sxa : Statement .sxa := fun _ => rfl
theorem zxa : Statement .zxa := fun _ => rfl
theorem sxb : Statement .sxb := fun _ => rfl
theorem zxb : Statement .zxb := fun _ => rfl
theorem sloadbf (start wm1 : Nibble) : Statement (.sloadbf start wm1) := fun _ => rfl
theorem uloadbf (start wm1 : Nibble) : Statement (.uloadbf start wm1) := fun _ => rfl
theorem storebf (start wm1 : Nibble) : Statement (.storebf start wm1) := fun _ => rfl
theorem dcount (mode : DcMode) (step : DcStep) (index : Nibble) : Statement (.dcount mode step index) := fun _ => rfl
theorem bcopy (count16 : Word) : Statement (.bcopy count16) := fun _ => rfl
theorem bfill (count16 : Word) : Statement (.bfill count16) := fun _ => rfl
theorem bcmp (count16 : Word) : Statement (.bcmp count16) := fun _ => rfl
theorem portIn (port8 : Byte) : Statement (.portIn port8) := fun _ => rfl
theorem portOut (port8 : Byte) : Statement (.portOut port8) := fun _ => rfl
theorem switchrange (low16 high16 default16 : Word) : Statement (.switchrange low16 high16 default16) := fun _ => rfl
theorem switchlist (pairs : List (Word × Word)) (default16 : Word) : Statement (.switchlist pairs default16) := by
  simp only [Statement, encode, operandBytes, Instr.length, List.length_cons, List.length_append, pairBytes_length, wordBytes_length]
  omega
theorem jmpAbs (a16 : Word) : Statement (.jmpAbs a16) := fun _ => rfl
theorem jzAbs (a16 : Word) : Statement (.jzAbs a16) := fun _ => rfl
theorem jnzAbs (a16 : Word) : Statement (.jnzAbs a16) := fun _ => rfl
theorem jmpRel8 (d8 : Byte) : Statement (.jmpRel8 d8) := fun _ => rfl
theorem jzRel8 (d8 : Byte) : Statement (.jzRel8 d8) := fun _ => rfl
theorem jnzRel8 (d8 : Byte) : Statement (.jnzRel8 d8) := fun _ => rfl

end EncodeLength

end Sys2Proof.Laws
end

