-- ==== Sys2Proof/Tests/Slice0.lean ====
section
/-! SUPPORT. Small tests: ill-formed terms, one written word per constructor, at most two single steps per instruction
(a `V` number is a row of spec/95_test_vectors.md, from which the expected values are taken), and for every obligation
that has hypotheses a state and operands that meet them. -/

namespace Sys2Proof.Tests

open Sys2Proof Sys2Proof.Machine

/-! ## Helpers -/

/-- A Running state with the instruction's bytes at PC and some cells set. -/
def start (a b sp fp pc : Word) (bytes : List Byte) (cells : List (Word × Byte)) : State :=
  let s := { State.reset with a := a, b := b, sp := sp, fp := fp, pc := pc }
  let m : Memory := cells.foldl (fun m c => Memory.write m c.1 c.2) []
  s.setMem (Memory.place m pc bytes)

/-- The bytes at some addresses. -/
def bytesAt (s : State) (xs : List Word) : List Byte := xs.map s.readByte

/-- What a result that is a next state satisfies. -/
def holdsNext (r : Result) (p : State → Bool) : Bool :=
  match r with
  | .next t => p t
  | .fault _ => false
  | .refused _ => false

/-- One step answers a next state that satisfies `p`. -/
def after (s : State) (p : State → Bool) : Bool := holdsNext (step s) p

theorem exists_of_holdsNext {r : Result} {p : State → Bool} (h : holdsNext r p = true) : ∃ t, r = .next t ∧ p t = true := by
  cases r with
  | next t => exact ⟨t, rfl, h⟩
  | fault _ => cases h
  | refused _ => cases h

/-! ## Well-formedness: one ill-formed term for each check -/

theorem test_wf_refuses_nop : (Instr.nop 0x00).wellFormed defaultOpmap = false := by decide
theorem test_wf_refuses_illegal_below : (Instr.illegal 0xBD).wellFormed defaultOpmap = false := by decide
theorem test_wf_refuses_illegal_between : (Instr.illegal 0xDB).wellFormed defaultOpmap = false := by decide
theorem test_wf_refuses_illegal_ff : (Instr.illegal 0xFF).wellFormed defaultOpmap = false := by decide
theorem test_wf_refuses_switchlist_of_256 :
    (Instr.switchlist (List.replicate 256 (0, 0)) 0).wellFormed defaultOpmap = false := by decide +kernel
theorem test_wf_accepts_switchlist_of_255 :
    (Instr.switchlist (List.replicate 255 (0, 0)) 0).wellFormed defaultOpmap = true := by decide +kernel

/-! ## Decoding: a word for every constructor, written out from the encoding tables -/

/-- R64, R72. -/
theorem test_decode_tier1 :
    decode defaultOpmap [0x0B] = .ok (.ldaFast 11, []) ∧
    decode defaultOpmap [0x15] = .ok (.ldbFast 5, []) ∧
    decode defaultOpmap [0x2D] = .ok (.pushFast 13, []) ∧
    decode defaultOpmap [0x3E] = .ok (.staFast 14, []) ∧
    decode defaultOpmap [0x4F] = .ok (.ldaI4 15, []) ∧
    decode defaultOpmap [0x57] = .ok (.ldbI4 7, []) ∧
    decode defaultOpmap [0x63] = .ok (.pushI4 3, []) ∧
    decode defaultOpmap [0x71] = .ok (.addI4 1, []) := by
  repeat' constructor

/-- R65, R72. -/
theorem test_decode_loads_stores :
    decode defaultOpmap [0x80, 0xFC] = .ok (.ldaNear 0xFC, []) ∧
    decode defaultOpmap [0x81, 0x10, 0x90] = .ok (.ldaFar 0x9010, []) ∧
    decode defaultOpmap [0x82, 0x34, 0x12] = .ok (.ldaAbs 0x1234, []) ∧
    decode defaultOpmap [0x83, 0x04] = .ok (.ldbNear 0x04, []) ∧
    decode defaultOpmap [0x84, 0xF0, 0xFF] = .ok (.ldbFar 0xFFF0, []) ∧
    decode defaultOpmap [0x85, 0x00, 0x20] = .ok (.ldbAbs 0x2000, []) ∧
    decode defaultOpmap [0x86, 0xFE] = .ok (.staNear 0xFE, []) ∧
    decode defaultOpmap [0x87, 0x00, 0x01] = .ok (.staFar 0x0100, []) ∧
    decode defaultOpmap [0x88, 0x34, 0x12] = .ok (.staAbs 0x1234, []) ∧
    decode defaultOpmap [0x89, 0xFF] = .ok (.ldabNear 0xFF, []) ∧
    decode defaultOpmap [0x8A, 0x10, 0x00] = .ok (.ldabFar 0x0010, []) ∧
    decode defaultOpmap [0x8B, 0x01, 0x20] = .ok (.ldabAbs 0x2001, []) ∧
    decode defaultOpmap [0x8C, 0xFD] = .ok (.stabNear 0xFD, []) ∧
    decode defaultOpmap [0x8D, 0x01, 0x00] = .ok (.stabFar 0x0001, []) ∧
    decode defaultOpmap [0x8E, 0x00, 0x40] = .ok (.stabAbs 0x4000, []) := by
  repeat' constructor

/-- R65, R72. -/
theorem test_decode_immediate_indirect :
    decode defaultOpmap [0x90, 0x80] = .ok (.ldaS8 0x80, []) ∧
    decode defaultOpmap [0x91, 0xC8] = .ok (.ldaU8 0xC8, []) ∧
    decode defaultOpmap [0x92, 0x34, 0x12] = .ok (.ldaI16 0x1234, []) ∧
    decode defaultOpmap [0x93, 0x80] = .ok (.ldbS8 0x80, []) ∧
    decode defaultOpmap [0x94, 0x81] = .ok (.ldbU8 0x81, []) ∧
    decode defaultOpmap [0x95, 0xFE, 0xFF] = .ok (.ldbI16 0xFFFE, []) ∧
    decode defaultOpmap [0x96] = .ok (.deref, []) ∧
    decode defaultOpmap [0x97] = .ok (.derefb, []) ∧
    decode defaultOpmap [0x98] = .ok (.popstore, []) ∧
    decode defaultOpmap [0x99] = .ok (.popstoreb, []) := by
  repeat' constructor

/-- R65, R72. -/
theorem test_decode_stack_calls :
    decode defaultOpmap [0x9A] = .ok (.pusha, []) ∧
    decode defaultOpmap [0x9B] = .ok (.pushb, []) ∧
    decode defaultOpmap [0x9C] = .ok (.popa, []) ∧
    decode defaultOpmap [0x9D] = .ok (.popb, []) ∧
    decode defaultOpmap [0x9E] = .ok (.getsp, []) ∧
    decode defaultOpmap [0x9F] = .ok (.setsp, []) ∧
    decode defaultOpmap [0xC7, 0x04] = .ok (.allocz 4, []) ∧
    decode defaultOpmap [0xD0, 0x00, 0x01] = .ok (.call 0x0100, []) ∧
    decode defaultOpmap [0xD1, 0x00, 0x01, 0x06] = .ok (.callalloc 0x0100 6, []) ∧
    decode defaultOpmap [0xD2] = .ok (.calla, []) ∧
    decode defaultOpmap [0xD3] = .ok (.ret, []) := by
  repeat' constructor

/-- R72. -/
theorem test_decode_alu :
    decode defaultOpmap [0xA0] = .ok (.add, []) ∧
    decode defaultOpmap [0xA1] = .ok (.sub, []) ∧
    decode defaultOpmap [0xA2] = .ok (.rsub, []) ∧
    decode defaultOpmap [0xA3] = .ok (.mul, []) ∧
    decode defaultOpmap [0xA4] = .ok (.divu, []) ∧
    decode defaultOpmap [0xA5] = .ok (.divs, []) ∧
    decode defaultOpmap [0xA6] = .ok (.modu, []) ∧
    decode defaultOpmap [0xA7] = .ok (.mods, []) ∧
    decode defaultOpmap [0xA8] = .ok (.neg, []) ∧
    decode defaultOpmap [0xA9] = .ok (.not, []) ∧
    decode defaultOpmap [0xAA] = .ok (.and, []) ∧
    decode defaultOpmap [0xAB] = .ok (.or, []) ∧
    decode defaultOpmap [0xAC] = .ok (.xor, []) ∧
    decode defaultOpmap [0xAD] = .ok (.shl, []) ∧
    decode defaultOpmap [0xAE] = .ok (.shr, []) ∧
    decode defaultOpmap [0xAF] = .ok (.asr, []) := by
  repeat' constructor

/-- R72. -/
theorem test_decode_comparisons_extensions :
    decode defaultOpmap [0xB0] = .ok (.eq, []) ∧
    decode defaultOpmap [0xB1] = .ok (.ne, []) ∧
    decode defaultOpmap [0xB2] = .ok (.ult, []) ∧
    decode defaultOpmap [0xB3] = .ok (.ule, []) ∧
    decode defaultOpmap [0xB4] = .ok (.ugt, []) ∧
    decode defaultOpmap [0xB5] = .ok (.uge, []) ∧
    decode defaultOpmap [0xB6] = .ok (.slt, []) ∧
    decode defaultOpmap [0xB7] = .ok (.sle, []) ∧
    decode defaultOpmap [0xB8] = .ok (.sgt, []) ∧
    decode defaultOpmap [0xB9] = .ok (.sge, []) ∧
    decode defaultOpmap [0xBA] = .ok (.sxa, []) ∧
    decode defaultOpmap [0xBB] = .ok (.zxa, []) ∧
    decode defaultOpmap [0xBC] = .ok (.sxb, []) ∧
    decode defaultOpmap [0xBD] = .ok (.zxb, []) := by
  repeat' constructor

/-- R66, R67. -/
theorem test_decode_bitfield_dcount :
    decode defaultOpmap [0xC0, 0x47] = .ok (.sloadbf 4 7, []) ∧
    decode defaultOpmap [0xC1, 0xF0] = .ok (.uloadbf 15 0, []) ∧
    decode defaultOpmap [0xC2, 0xC7] = .ok (.storebf 12 7, []) ∧
    decode defaultOpmap [0xC3, 0x0B] = .ok (.dcount .ldpost .plus1 11, []) ∧
    decode defaultOpmap [0xC3, 0x5B] = .ok (.dcount .stpost .plus2 11, []) ∧
    decode defaultOpmap [0xC3, 0xAC] = .ok (.dcount .ldpre .minus1 12, []) ∧
    decode defaultOpmap [0xC3, 0xFF] = .ok (.dcount .stpre .minus2 15, []) := by
  repeat' constructor

/-- R65, R72. -/
theorem test_decode_io_block :
    decode defaultOpmap [0xC4, 0x03, 0x00] = .ok (.bcopy 3, []) ∧
    decode defaultOpmap [0xC5, 0x02, 0x01] = .ok (.bfill 0x0102, []) ∧
    decode defaultOpmap [0xC6, 0xFF, 0xFF] = .ok (.bcmp 0xFFFF, []) ∧
    decode defaultOpmap [0xC8, 0x00] = .ok (.portIn 0, []) ∧
    decode defaultOpmap [0xC9, 0x07] = .ok (.portOut 7, []) := by
  repeat' constructor

/-- R65, R237, R239. -/
theorem test_decode_control :
    decode defaultOpmap [0xD4, 0x01, 0x00, 0x03, 0x00, 0x00, 0x02] = .ok (.switchrange 1 3 0x0200, []) ∧
    decode defaultOpmap [0xD5, 0x02, 0x05, 0x00, 0x00, 0x02, 0x09, 0x00, 0x10, 0x02, 0x20, 0x02] = .ok (.switchlist [(5, 0x0200), (9, 0x0210)] 0x0220, []) ∧
    decode defaultOpmap [0xD5, 0x00, 0x34, 0x12] = .ok (.switchlist [] 0x1234, []) ∧
    decode defaultOpmap [0xD6, 0x34, 0x12] = .ok (.jmpAbs 0x1234, []) ∧
    decode defaultOpmap [0xD7, 0x00, 0x01] = .ok (.jzAbs 0x0100, []) ∧
    decode defaultOpmap [0xD8, 0x00, 0x01] = .ok (.jnzAbs 0x0100, []) ∧
    decode defaultOpmap [0xD9, 0x01] = .ok (.jmpRel8 0x01, []) ∧
    decode defaultOpmap [0xDA, 0x05] = .ok (.jzRel8 0x05, []) ∧
    decode defaultOpmap [0xDB, 0xF0] = .ok (.jnzRel8 0xF0, []) := by
  repeat' constructor

/-- R70. -/
theorem test_decode_reserved_illegal :
    decode defaultOpmap [0x8F] = .ok (.nop 0x8F, []) ∧
    decode defaultOpmap [0xFF] = .ok (.nop 0xFF, []) ∧
    decode defaultOpmap [0xBE] = .ok (.illegal 0xBE, []) ∧
    decode defaultOpmap [0xBF] = .ok (.illegal 0xBF, []) ∧
    decode defaultOpmap [0xCA] = .ok (.illegal 0xCA, []) ∧
    decode defaultOpmap [0xCF] = .ok (.illegal 0xCF, []) ∧
    decode defaultOpmap [0xDC] = .ok (.illegal 0xDC, []) ∧
    decode defaultOpmap [0xE0] = .ok (.illegal 0xE0, []) ∧
    decode defaultOpmap [0xFE] = .ok (.illegal 0xFE, []) := by
  repeat' constructor

/-- A decoder given too few bytes refuses by name. -/
theorem test_decode_refuses :
    decode defaultOpmap [] = .error .noOpcode ∧ decode defaultOpmap [0x82, 0x34] = .error (.truncated 0x82) ∧
    decode defaultOpmap [0xD5, 0x01, 0x05, 0x00, 0x00, 0x02] = .error (.truncated 0xD5) := by
  repeat' constructor

/-- Table words are numbered from the least significant bit of the first byte. -/
theorem test_decodeTableWord :
    decodeTableWord 8 0x0B = some (.ldaFast 11) ∧ decodeTableWord 16 0xFC80 = some (.ldaNear 0xFC) ∧
    decodeTableWord 24 0x123482 = some (.ldaAbs 0x1234) ∧ decodeTableWord 8 0xE0 = some (.illegal 0xE0) := by
  decide

/-! ## Another binding of `OPMAP` (R7, D1) -/

/-- A binding with the codes of ADD and DIVU exchanged. -/
def exchangedOpmap : Config.OpMap := (defaultOpmap.set 0x20 .divu).set 0x24 .add

theorem test_exchangedOpmap_decodes :
    decode exchangedOpmap [0xA0] = .ok (.divu, []) ∧ decode exchangedOpmap [0xA4] = .ok (.add, []) ∧
    encode exchangedOpmap .divu = [0xA0] ∧ encode exchangedOpmap .sub = [0xA1] := by
  repeat' constructor

/-- Under it the byte 0xA4 adds, and the record of a divide by zero holds 0xA0. -/
theorem test_exchangedOpmap_steps :
    let bind (s : State) := s.setParams { s.params with opmap := exchangedOpmap }
    (after (bind (start 5 7 0x7FF0 0x8000 0x0100 [0xA4] [])) fun t => t.a = 12) ∧
    (after (bind (start 5 0 0x7FF0 0x8000 0x0100 [0xA0] [])) fun t =>
      t.status = .faulted (.divideByZero 0x0100 0xA0)) ∧
    (after ((bind State.reset).withFetchWord 8 0xA1) fun t => t.pc = 1 ∧ t.params.opmap = defaultOpmap) := by
  decide

/-! ## Single steps -/

/-- `withFetchWord` puts a word where the next step fetches. -/
theorem test_withFetchWord : after (State.reset.withFetchWord 24 0x123492) fun t =>
    t.a = 0x1234 ∧ t.pc = 0x0003 := by decide

/-- R63, R313: a Faulted engine has no step. -/
theorem test_step_of_faulted :
    step (State.reset.setStatus (.faulted (.divideByZero 0x0100 0xA4))) = .fault (.engineFaulted (.divideByZero 0x0100 0xA4)) :=
  rfl

/-- R260: end of input is a free value, and the instruction completes. -/
theorem test_portIn_endOfInput : after (start 0x1234 0 0x7FF0 0x8000 0x0100 [0xC8, 0x00] []) fun t =>
    t.pc = 0x0102 ∧ t.inputDraws = 1 := by decide

/-- V2. -/
theorem test_ldaFast_V2 : after (start 0x0000 0x0000 0x7FF0 0x8000 0x0100 [0x0B] [(0x7FFE, 0xEF), (0x7FFF, 0xBE)]) fun t =>
    t.a = 0xBEEF ∧ t.pc = 0x0101 := by decide

/-- V6. -/
theorem test_ldaFast_V6 : after (start 0x0000 0x0000 0x7FF0 0x0001 0x0100 [0x0B] [(0x0000, 0x12), (0xFFFF, 0x34)]) fun t =>
    t.a = 0x1234 ∧ t.pc = 0x0101 := by decide

/-- V7. -/
theorem test_ldbFast_V7 : after (start 0x0000 0x0000 0x7FF0 0x8000 0x0100 [0x15] [(0x7FF2, 0x55), (0x7FF3, 0x00)]) fun t =>
    t.b = 0x0055 ∧ t.pc = 0x0101 := by decide

/-- V8. -/
theorem test_pushFast_V8 : after (start 0x0000 0x0000 0x7FF0 0x8000 0x0100 [0x2D] [(0x8006, 0x05), (0x8007, 0x00)]) fun t =>
    t.sp = 0x7FEE ∧ t.pc = 0x0101 ∧ bytesAt t [0x7FEF, 0x7FF0] = [0x05, 0x00] := by decide

/-- V9. -/
theorem test_pushFast_V9 : after (start 0x0000 0x0000 0x7FEA 0x8000 0x0100 [0x20] [(0x7FE8, 0xAA), (0x7FE9, 0xAA)]) fun t =>
    t.sp = 0x7FE8 ∧ t.pc = 0x0101 ∧ bytesAt t [0x7FE9, 0x7FEA] = [0xAA, 0xAA] := by decide

/-- V10. -/
theorem test_staFast_V10 : after (start 0xCAFE 0x0000 0x7FF0 0x8000 0x0100 [0x30] []) fun t =>
    t.pc = 0x0101 ∧ bytesAt t [0x7FE8, 0x7FE9] = [0xFE, 0xCA] := by decide

/-- V11. -/
theorem test_staFast_V11 : after (start 0x0102 0x0000 0x7FF0 0x8000 0x0100 [0x3E] []) fun t =>
    t.pc = 0x0101 ∧ bytesAt t [0x8008, 0x8009] = [0x02, 0x01] := by decide

/-- V13. -/
theorem test_ldaI4_V13 : after (start 0x0000 0x0000 0x7FF0 0x8000 0x0100 [0x4F] []) fun t =>
    t.a = 0x000F ∧ t.pc = 0x0101 := by decide

/-- V14. -/
theorem test_ldbI4_V14 : after (start 0x0000 0xFFFF 0x7FF0 0x8000 0x0100 [0x57] []) fun t =>
    t.b = 0x0007 ∧ t.pc = 0x0101 := by decide

/-- V15. -/
theorem test_pushI4_V15 : after (start 0x0000 0x0000 0xFFFF 0x8000 0x0100 [0x63] []) fun t =>
    t.sp = 0xFFFD ∧ t.pc = 0x0101 ∧ bytesAt t [0xFFFE, 0xFFFF] = [0x03, 0x00] := by decide

/-- V17. -/
theorem test_pushI4_V17 : after (start 0x0000 0x0000 0x0001 0x8000 0x0100 [0x61] []) fun t =>
    t.sp = 0xFFFF ∧ t.pc = 0x0101 ∧ bytesAt t [0x0000, 0x0001] = [0x01, 0x00] := by decide

/-- V18. -/
theorem test_addI4_V18 : after (start 0xFFFF 0x0000 0x7FF0 0x8000 0x0100 [0x71] []) fun t =>
    t.a = 0x0000 ∧ t.pc = 0x0101 := by decide

/-- V19. -/
theorem test_addI4_V19 : after (start 0x7FF1 0x0000 0x7FF0 0x8000 0x0100 [0x7F] []) fun t =>
    t.a = 0x8000 ∧ t.pc = 0x0101 := by decide

/-- V21. -/
theorem test_ldaNear_V21 : after (start 0x0000 0x0000 0x7FF0 0x8000 0x0100 [0x80, 0xFC] [(0x7FFC, 0x11), (0x7FFD, 0x11)]) fun t =>
    t.a = 0x1111 ∧ t.pc = 0x0102 := by decide

/-- V24. -/
theorem test_ldaNear_V24 : after (start 0x0000 0x0000 0x7FF0 0x8000 0x0100 [0x80, 0x80] [(0x7F80, 0x78), (0x7F81, 0x56)]) fun t =>
    t.a = 0x5678 ∧ t.pc = 0x0102 := by decide

/-- V25. -/
theorem test_ldaFar_V25 : after (start 0x0000 0x0000 0x7FF0 0x8000 0x0100 [0x81, 0x10, 0x00] [(0x8010, 0x0B), (0x8011, 0x0A)]) fun t =>
    t.a = 0x0A0B ∧ t.pc = 0x0103 := by decide

/-- V26. -/
theorem test_ldaFar_V26 : after (start 0x0000 0x0000 0x7FF0 0x8000 0x0100 [0x81, 0x00, 0x90] [(0x1000, 0x0D), (0x1001, 0x0C)]) fun t =>
    t.a = 0x0C0D ∧ t.pc = 0x0103 := by decide

/-- V27. -/
theorem test_ldaAbs_V27 : after (start 0x0000 0x0000 0x7FF0 0x8000 0x0100 [0x82, 0x34, 0x12] [(0x1234, 0x78), (0x1235, 0x56)]) fun t =>
    t.a = 0x5678 ∧ t.pc = 0x0103 := by decide

/-- V28. -/
theorem test_ldaAbs_V28 : after (start 0x0000 0x0000 0x7FF0 0x8000 0x0100 [0x82, 0xFF, 0xFF] [(0x0000, 0x02), (0xFFFF, 0x01)]) fun t =>
    t.a = 0x0201 ∧ t.pc = 0x0103 := by decide

/-- V29. -/
theorem test_ldbNear_V29 : after (start 0x0000 0x0000 0x7FF0 0x8000 0x0100 [0x83, 0x04] [(0x8004, 0x07), (0x8005, 0x00)]) fun t =>
    t.b = 0x0007 ∧ t.pc = 0x0102 := by decide

/-- V30. -/
theorem test_ldbFar_V30 : after (start 0x0000 0x0000 0x7FF0 0x0000 0x0100 [0x84, 0xF0, 0xFF] [(0xFFF0, 0xAA), (0xFFF1, 0xAA)]) fun t =>
    t.b = 0xAAAA ∧ t.pc = 0x0103 := by decide

/-- V31. -/
theorem test_ldbAbs_V31 : after (start 0x0000 0x0000 0x7FF0 0x8000 0x0100 [0x85, 0x00, 0x20] [(0x2000, 0x02), (0x2001, 0x01)]) fun t =>
    t.b = 0x0102 ∧ t.pc = 0x0103 := by decide

/-- V32. -/
theorem test_staNear_V32 : after (start 0x0203 0x0000 0x7FF0 0x8000 0x0100 [0x86, 0xFE] []) fun t =>
    t.pc = 0x0102 ∧ bytesAt t [0x7FFE, 0x7FFF] = [0x03, 0x02] := by decide

/-- V33. -/
theorem test_staNear_V33 : after (start 0x0500 0x0000 0x7FF0 0x8000 0x0100 [0x86, 0x02] []) fun t =>
    t.pc = 0x0102 ∧ bytesAt t [0x8002, 0x8003] = [0x00, 0x05] := by decide

/-- V34. -/
theorem test_staFar_V34 : after (start 0x1234 0x0000 0x7FF0 0x8000 0x0100 [0x87, 0x00, 0x01] []) fun t =>
    t.pc = 0x0103 ∧ bytesAt t [0x8100, 0x8101] = [0x34, 0x12] := by decide

/-- V35. -/
theorem test_staAbs_V35 : after (start 0xBEEF 0x0000 0x7FF0 0x8000 0x0100 [0x88, 0x00, 0x30] []) fun t =>
    t.pc = 0x0103 ∧ bytesAt t [0x3000, 0x3001] = [0xEF, 0xBE] := by decide

/-- V36. -/
theorem test_staAbs_V36 : after (start 0x4142 0x0000 0x7FF0 0x8000 0x0100 [0x88, 0x01, 0x01] []) fun t =>
    t.pc = 0x0103 ∧ bytesAt t [0x0101, 0x0102] = [0x42, 0x41] := by decide

/-- V37. -/
theorem test_ldabNear_V37 : after (start 0xFFFF 0x0000 0x7FF0 0x8000 0x0100 [0x89, 0xFF] [(0x7FFF, 0x80)]) fun t =>
    t.a = 0x0080 ∧ t.pc = 0x0102 := by decide

/-- V38. -/
theorem test_ldabFar_V38 : after (start 0x0000 0x0000 0x7FF0 0x8000 0x0100 [0x8A, 0x10, 0x00] [(0x8010, 0xFF)]) fun t =>
    t.a = 0x00FF ∧ t.pc = 0x0103 := by decide

/-- V39. -/
theorem test_ldabAbs_V39 : after (start 0x0000 0x0000 0x7FF0 0x8000 0x0100 [0x8B, 0x01, 0x20] [(0x2001, 0x7F)]) fun t =>
    t.a = 0x007F ∧ t.pc = 0x0103 := by decide

/-- V40. -/
theorem test_stabNear_V40 : after (start 0x1234 0x0000 0x7FF0 0x8000 0x0100 [0x8C, 0xFD] []) fun t =>
    t.pc = 0x0102 ∧ bytesAt t [0x7FFD] = [0x34] := by decide

/-- V41. -/
theorem test_stabFar_V41 : after (start 0x00AB 0x0000 0x7FF0 0x8000 0x0100 [0x8D, 0x01, 0x00] []) fun t =>
    t.pc = 0x0103 ∧ bytesAt t [0x8001] = [0xAB] := by decide

/-- V42. -/
theorem test_stabAbs_V42 : after (start 0xFF41 0x0000 0x7FF0 0x8000 0x0100 [0x8E, 0x00, 0x40] []) fun t =>
    t.pc = 0x0103 ∧ bytesAt t [0x4000] = [0x41] := by decide

/-- V43. -/
theorem test_ldaS8_V43 : after (start 0x0000 0x0000 0x7FF0 0x8000 0x0100 [0x90, 0xFE] []) fun t =>
    t.a = 0xFFFE ∧ t.pc = 0x0102 := by decide

/-- V45. -/
theorem test_ldaS8_V45 : after (start 0x0000 0x0000 0x7FF0 0x8000 0x0100 [0x90, 0x80] []) fun t =>
    t.a = 0xFF80 ∧ t.pc = 0x0102 := by decide

/-- V46. -/
theorem test_ldaU8_V46 : after (start 0x0000 0x0000 0x7FF0 0x8000 0x0100 [0x91, 0xC8] []) fun t =>
    t.a = 0x00C8 ∧ t.pc = 0x0102 := by decide

/-- V47. -/
theorem test_ldaI16_V47 : after (start 0x0000 0x0000 0x7FF0 0x8000 0x0100 [0x92, 0x34, 0x12] []) fun t =>
    t.a = 0x1234 ∧ t.pc = 0x0103 := by decide

/-- V48. -/
theorem test_ldaI16_V48 : after (start 0x0000 0x0000 0x7FF0 0x8000 0xFFFE [0x92, 0x78, 0x56] []) fun t =>
    t.a = 0x5678 ∧ t.pc = 0x0001 := by decide

/-- V49. -/
theorem test_ldbS8_V49 : after (start 0x0000 0x0000 0x7FF0 0x8000 0x0100 [0x93, 0x80] []) fun t =>
    t.b = 0xFF80 ∧ t.pc = 0x0102 := by decide

/-- V50. -/
theorem test_ldbU8_V50 : after (start 0x0000 0x0000 0x7FF0 0x8000 0x0100 [0x94, 0x80] []) fun t =>
    t.b = 0x0080 ∧ t.pc = 0x0102 := by decide

/-- V51. -/
theorem test_ldbI16_V51 : after (start 0x0000 0x0000 0x7FF0 0x8000 0x0100 [0x95, 0xFF, 0xFF] []) fun t =>
    t.b = 0xFFFF ∧ t.pc = 0x0103 := by decide

/-- V52. -/
theorem test_deref_V52 : after (start 0x2000 0x0000 0x7FF0 0x8000 0x0100 [0x96] [(0x2000, 0x42), (0x2001, 0x00)]) fun t =>
    t.a = 0x0042 ∧ t.pc = 0x0101 := by decide

/-- V53. -/
theorem test_deref_V53 : after (start 0xFFFF 0x0000 0x7FF0 0x8000 0x0100 [0x96] [(0x0000, 0x12), (0xFFFF, 0x34)]) fun t =>
    t.a = 0x1234 ∧ t.pc = 0x0101 := by decide

/-- V54. -/
theorem test_derefb_V54 : after (start 0x2001 0x0000 0x7FF0 0x8000 0x0100 [0x97] [(0x2001, 0x9C)]) fun t =>
    t.a = 0x009C ∧ t.pc = 0x0101 := by decide

/-- V55. -/
theorem test_popstore_V55 : after (start 0x3000 0x0000 0x7FF0 0x8000 0x0100 [0x98] [(0x7FF1, 0x09), (0x7FF2, 0x00)]) fun t =>
    t.sp = 0x7FF2 ∧ t.pc = 0x0101 ∧ bytesAt t [0x3000, 0x3001] = [0x09, 0x00] := by decide

/-- V56. -/
theorem test_popstore_V56 : after (start 0x7FF1 0x0000 0x7FF0 0x8000 0x0100 [0x98] [(0x7FF1, 0xCD), (0x7FF2, 0xAB)]) fun t =>
    t.sp = 0x7FF2 ∧ t.pc = 0x0101 ∧ bytesAt t [0x7FF1, 0x7FF2] = [0xCD, 0xAB] := by decide

/-- V57. -/
theorem test_popstoreb_V57 : after (start 0x3000 0x0000 0x7FF0 0x8000 0x0100 [0x99] [(0x7FF1, 0x34), (0x7FF2, 0x12)]) fun t =>
    t.sp = 0x7FF2 ∧ t.pc = 0x0101 ∧ bytesAt t [0x3000] = [0x34] := by decide

/-- V58. -/
theorem test_pusha_V58 : after (start 0x1234 0x0000 0xFFFF 0x8000 0x0100 [0x9A] []) fun t =>
    t.sp = 0xFFFD ∧ t.pc = 0x0101 ∧ bytesAt t [0xFFFE, 0xFFFF] = [0x34, 0x12] := by decide

/-- V59. -/
theorem test_pusha_V59 : after (start 0x1234 0x0000 0x0000 0x8000 0x0100 [0x9A] []) fun t =>
    t.sp = 0xFFFE ∧ t.pc = 0x0101 ∧ bytesAt t [0xFFFF, 0x0000] = [0x34, 0x12] := by decide

/-- V60. -/
theorem test_pushb_V60 : after (start 0x0000 0x00FF 0x8000 0x8000 0x0100 [0x9B] []) fun t =>
    t.sp = 0x7FFE ∧ t.pc = 0x0101 ∧ bytesAt t [0x7FFF, 0x8000] = [0xFF, 0x00] := by decide

/-- V61. -/
theorem test_popa_V61 : after (start 0x0000 0x0000 0x7FFE 0x8000 0x0100 [0x9C] [(0x7FFF, 0x34), (0x8000, 0x12)]) fun t =>
    t.a = 0x1234 ∧ t.sp = 0x8000 ∧ t.pc = 0x0101 := by decide

/-- V62. -/
theorem test_popa_V62 : after (start 0x0000 0x0000 0xFFFF 0x8000 0x0100 [0x9C] [(0x0000, 0xD9), (0x0001, 0x01)]) fun t =>
    t.a = 0x01D9 ∧ t.sp = 0x0001 ∧ t.pc = 0x0101 := by decide

/-- V63. -/
theorem test_popb_V63 : after (start 0x0000 0x0000 0x7FFE 0x8000 0x0100 [0x9D] [(0x7FFF, 0x03), (0x8000, 0x00)]) fun t =>
    t.b = 0x0003 ∧ t.sp = 0x8000 ∧ t.pc = 0x0101 := by decide

/-- V64. -/
theorem test_getsp_V64 : after (start 0x0000 0x0000 0xFFFF 0x8000 0x0100 [0x9E] []) fun t =>
    t.a = 0xFFFF ∧ t.pc = 0x0101 := by decide

/-- V65. -/
theorem test_setsp_V65 : after (start 0x7001 0x0000 0x7FF0 0x8000 0x0100 [0x9F] []) fun t =>
    t.sp = 0x7001 ∧ t.pc = 0x0101 := by decide

/-- V66. -/
theorem test_allocz_V66 : after (start 0x0000 0x0000 0xFFFD 0x8000 0x0100 [0xC7, 0x04] [(0xFFFA, 0x01), (0xFFFB, 0x02), (0xFFFC, 0x03), (0xFFFD, 0x04)]) fun t =>
    t.sp = 0xFFF9 ∧ t.pc = 0x0102 ∧ bytesAt t [0xFFFD, 0xFFFC, 0xFFFB, 0xFFFA] = [0x00, 0x00, 0x00, 0x00] := by decide

/-- V68. -/
theorem test_allocz_V68 : after (start 0x0000 0x0000 0x0000 0x8000 0x0100 [0xC7, 0x02] [(0x0000, 0x09), (0xFFFF, 0x09)]) fun t =>
    t.sp = 0xFFFE ∧ t.pc = 0x0102 ∧ bytesAt t [0x0000, 0xFFFF] = [0x00, 0x00] := by decide

/-- V69. -/
theorem test_call_V69 : after (start 0x0000 0x0000 0xFFFF 0xFFFF 0x0010 [0xD0, 0x00, 0x01] []) fun t =>
    t.sp = 0xFFFB ∧ t.fp = 0xFFFC ∧ t.pc = 0x0100 ∧ bytesAt t [0xFFFE, 0xFFFF, 0xFFFC, 0xFFFD] = [0x13, 0x00, 0xFF, 0xFF] := by decide

/-- V70. -/
theorem test_callalloc_V70 : after (start 0x0000 0x0000 0xFFFF 0xFFFF 0x0010 [0xD1, 0x00, 0x01, 0x06] []) fun t =>
    t.sp = 0xFFF5 ∧ t.fp = 0xFFFC ∧ t.pc = 0x0100 ∧ bytesAt t [0xFFFE, 0xFFFF, 0xFFFC, 0xFFFD] = [0x14, 0x00, 0xFF, 0xFF] := by decide

/-- V71. -/
theorem test_calla_V71 : after (start 0x0300 0x0000 0x8000 0x9000 0x0020 [0xD2] []) fun t =>
    t.sp = 0x7FFC ∧ t.fp = 0x7FFD ∧ t.pc = 0x0300 ∧ bytesAt t [0x7FFF, 0x8000, 0x7FFD, 0x7FFE] = [0x21, 0x00, 0x00, 0x90] := by decide

/-- V72. -/
theorem test_ret_V72 : after (start 0x0000 0x0000 0xFFF0 0xFFFC 0x0100 [0xD3] [(0xFFFC, 0xFF), (0xFFFD, 0xFF), (0xFFFE, 0x13), (0xFFFF, 0x00)]) fun t =>
    t.sp = 0xFFFF ∧ t.fp = 0xFFFF ∧ t.pc = 0x0013 := by decide

/-- V73. -/
theorem test_ret_V73 : after (start 0x0000 0x0000 0xFFFF 0xFFFF 0x0100 [0xD3] [(0x0000, 0xD9), (0x0001, 0x01), (0x0002, 0x00), (0xFFFF, 0x00)]) fun t =>
    t.sp = 0x0002 ∧ t.fp = 0xD900 ∧ t.pc = 0x0001 := by decide

/-- V74. -/
theorem test_add_V74 : after (start 0x7FFF 0x0001 0x7FF0 0x8000 0x0100 [0xA0] []) fun t =>
    t.a = 0x8000 ∧ t.pc = 0x0101 := by decide

/-- V75. -/
theorem test_add_V75 : after (start 0xFFFF 0x0001 0x7FF0 0x8000 0x0100 [0xA0] []) fun t =>
    t.a = 0x0000 ∧ t.pc = 0x0101 := by decide

/-- V76. -/
theorem test_sub_V76 : after (start 0x0005 0x0007 0x7FF0 0x8000 0x0100 [0xA1] []) fun t =>
    t.a = 0xFFFE ∧ t.pc = 0x0101 := by decide

/-- V77. -/
theorem test_sub_V77 : after (start 0x0000 0x0001 0x7FF0 0x8000 0x0100 [0xA1] []) fun t =>
    t.a = 0xFFFF ∧ t.pc = 0x0101 := by decide

/-- V78. -/
theorem test_rsub_V78 : after (start 0x0005 0x0007 0x7FF0 0x8000 0x0100 [0xA2] []) fun t =>
    t.a = 0x0002 ∧ t.pc = 0x0101 := by decide

/-- V80. -/
theorem test_mul_V80 : after (start 0x1234 0x0010 0x7FF0 0x8000 0x0100 [0xA3] []) fun t =>
    t.a = 0x2340 ∧ t.pc = 0x0101 := by decide

/-- V83. -/
theorem test_mul_V83 : after (start 0xFFFE 0x0003 0x7FF0 0x8000 0x0100 [0xA3] []) fun t =>
    t.a = 0xFFFA ∧ t.pc = 0x0101 := by decide

/-- V84. -/
theorem test_divu_V84 : after (start 0x0064 0x0007 0x7FF0 0x8000 0x0100 [0xA4] []) fun t =>
    t.a = 0x000E ∧ t.pc = 0x0101 := by decide

/-- V87. -/
theorem test_divu_V87 : after (start 0x0005 0x0000 0x7FF0 0x8000 0x0100 [0xA4] []) fun t =>
    t.pc = 0x0101 ∧ t.a = 0x0005 ∧ t.status = .faulted (.divideByZero 0x0100 0xA4) ∧ t.events.getLast? = some (.fault (.divideByZero 0x0100 0xA4)) := by decide

/-- V88. -/
theorem test_divs_V88 : after (start 0xFFF9 0x0002 0x7FF0 0x8000 0x0100 [0xA5] []) fun t =>
    t.a = 0xFFFD ∧ t.pc = 0x0101 := by decide

/-- V92. -/
theorem test_divs_V92 : after (start 0x8000 0x0000 0x7FF0 0x8000 0x0100 [0xA5] []) fun t =>
    t.pc = 0x0101 ∧ t.a = 0x8000 ∧ t.status = .faulted (.divideByZero 0x0100 0xA5) ∧ t.events.getLast? = some (.fault (.divideByZero 0x0100 0xA5)) := by decide

/-- V93. -/
theorem test_modu_V93 : after (start 0x0064 0x0007 0x7FF0 0x8000 0x0100 [0xA6] []) fun t =>
    t.a = 0x0002 ∧ t.pc = 0x0101 := by decide

/-- V95. -/
theorem test_modu_V95 : after (start 0x1234 0x0000 0x7FF0 0x8000 0x0100 [0xA6] []) fun t =>
    t.pc = 0x0101 ∧ t.a = 0x1234 ∧ t.status = .faulted (.divideByZero 0x0100 0xA6) ∧ t.events.getLast? = some (.fault (.divideByZero 0x0100 0xA6)) := by decide

/-- V96. -/
theorem test_mods_V96 : after (start 0xFFF9 0x0002 0x7FF0 0x8000 0x0100 [0xA7] []) fun t =>
    t.a = 0xFFFF ∧ t.pc = 0x0101 := by decide

/-- V100. -/
theorem test_mods_V100 : after (start 0x0001 0x0000 0x7FF0 0x8000 0x0100 [0xA7] []) fun t =>
    t.pc = 0x0101 ∧ t.a = 0x0001 ∧ t.status = .faulted (.divideByZero 0x0100 0xA7) ∧ t.events.getLast? = some (.fault (.divideByZero 0x0100 0xA7)) := by decide

/-- V101. -/
theorem test_neg_V101 : after (start 0x0001 0x0000 0x7FF0 0x8000 0x0100 [0xA8] []) fun t =>
    t.a = 0xFFFF ∧ t.pc = 0x0101 := by decide

/-- V102. -/
theorem test_neg_V102 : after (start 0x8000 0x0000 0x7FF0 0x8000 0x0100 [0xA8] []) fun t =>
    t.pc = 0x0101 := by decide

/-- V104. -/
theorem test_not_V104 : after (start 0x00FF 0x0000 0x7FF0 0x8000 0x0100 [0xA9] []) fun t =>
    t.a = 0xFF00 ∧ t.pc = 0x0101 := by decide

/-- V105. -/
theorem test_not_V105 : after (start 0x0001 0x0000 0x7FF0 0x8000 0x0100 [0xA9] []) fun t =>
    t.a = 0xFFFE ∧ t.pc = 0x0101 := by decide

/-- V106. -/
theorem test_and_V106 : after (start 0x0FF0 0x3C3C 0x7FF0 0x8000 0x0100 [0xAA] []) fun t =>
    t.a = 0x0C30 ∧ t.pc = 0x0101 := by decide

/-- V107. -/
theorem test_or_V107 : after (start 0x0FF0 0x3C3C 0x7FF0 0x8000 0x0100 [0xAB] []) fun t =>
    t.a = 0x3FFC ∧ t.pc = 0x0101 := by decide

/-- V108. -/
theorem test_xor_V108 : after (start 0x0FF0 0x3C3C 0x7FF0 0x8000 0x0100 [0xAC] []) fun t =>
    t.a = 0x33CC ∧ t.pc = 0x0101 := by decide

/-- V111. -/
theorem test_shl_V111 : after (start 0x0003 0x000F 0x7FF0 0x8000 0x0100 [0xAD] []) fun t =>
    t.a = 0x8000 ∧ t.pc = 0x0101 := by decide

/-- V112. -/
theorem test_shl_V112 : after (start 0xFFFF 0x0010 0x7FF0 0x8000 0x0100 [0xAD] []) fun t =>
    t.a = 0x0000 ∧ t.pc = 0x0101 := by decide

/-- V114. -/
theorem test_shr_V114 : after (start 0x8000 0x000F 0x7FF0 0x8000 0x0100 [0xAE] []) fun t =>
    t.a = 0x0001 ∧ t.pc = 0x0101 := by decide

/-- V115. -/
theorem test_shr_V115 : after (start 0x8000 0xFFFF 0x7FF0 0x8000 0x0100 [0xAE] []) fun t =>
    t.a = 0x0000 ∧ t.pc = 0x0101 := by decide

/-- V116. -/
theorem test_asr_V116 : after (start 0x8000 0x0004 0x7FF0 0x8000 0x0100 [0xAF] []) fun t =>
    t.a = 0xF800 ∧ t.pc = 0x0101 := by decide

/-- V118. -/
theorem test_asr_V118 : after (start 0x8000 0x0010 0x7FF0 0x8000 0x0100 [0xAF] []) fun t =>
    t.a = 0xFFFF ∧ t.pc = 0x0101 := by decide

/-- V121. -/
theorem test_eq_V121 : after (start 0x0001 0xFFFF 0x7FF0 0x8000 0x0100 [0xB0] []) fun t =>
    t.a = 0x0000 ∧ t.pc = 0x0101 := by decide

/-- V122. -/
theorem test_eq_V122 : after (start 0x8000 0x8000 0x7FF0 0x8000 0x0100 [0xB0] []) fun t =>
    t.a = 0x0001 ∧ t.pc = 0x0101 := by decide

/-- V124. -/
theorem test_ne_V124 : after (start 0x0001 0xFFFF 0x7FF0 0x8000 0x0100 [0xB1] []) fun t =>
    t.pc = 0x0101 := by decide

/-- V125. -/
theorem test_ne_V125 : after (start 0x8000 0x8000 0x7FF0 0x8000 0x0100 [0xB1] []) fun t =>
    t.a = 0x0000 ∧ t.pc = 0x0101 := by decide

/-- V127. -/
theorem test_ult_V127 : after (start 0x0001 0xFFFF 0x7FF0 0x8000 0x0100 [0xB2] []) fun t =>
    t.pc = 0x0101 := by decide

/-- V128. -/
theorem test_ult_V128 : after (start 0x8000 0x8000 0x7FF0 0x8000 0x0100 [0xB2] []) fun t =>
    t.a = 0x0000 ∧ t.pc = 0x0101 := by decide

/-- V131. -/
theorem test_ule_V131 : after (start 0x8000 0x8000 0x7FF0 0x8000 0x0100 [0xB3] []) fun t =>
    t.a = 0x0001 ∧ t.pc = 0x0101 := by decide

/-- The rule of `ule` by hand: 0xFFFF against 0x0001. -/
theorem test_ule_byHand : after (start 0xFFFF 0x0001 0x7FF0 0x8000 0x0100 [0xB3] []) fun t =>
    t.a = 0 := by decide

/-- V133. -/
theorem test_ugt_V133 : after (start 0x0001 0xFFFF 0x7FF0 0x8000 0x0100 [0xB4] []) fun t =>
    t.a = 0x0000 ∧ t.pc = 0x0101 := by decide

/-- The rule of `ugt` by hand: 0xFFFF against 0x0001. -/
theorem test_ugt_byHand : after (start 0xFFFF 0x0001 0x7FF0 0x8000 0x0100 [0xB4] []) fun t =>
    t.a = 1 := by decide

/-- V136. -/
theorem test_uge_V136 : after (start 0x0001 0xFFFF 0x7FF0 0x8000 0x0100 [0xB5] []) fun t =>
    t.a = 0x0000 ∧ t.pc = 0x0101 := by decide

/-- V137. -/
theorem test_uge_V137 : after (start 0x8000 0x8000 0x7FF0 0x8000 0x0100 [0xB5] []) fun t =>
    t.a = 0x0001 ∧ t.pc = 0x0101 := by decide

/-- V139. -/
theorem test_slt_V139 : after (start 0x0001 0xFFFF 0x7FF0 0x8000 0x0100 [0xB6] []) fun t =>
    t.a = 0x0000 ∧ t.pc = 0x0101 := by decide

/-- The rule of `slt` by hand: 0x8000 against 0x7FFF. -/
theorem test_slt_byHand : after (start 0x8000 0x7FFF 0x7FF0 0x8000 0x0100 [0xB6] []) fun t =>
    t.a = 1 := by decide

/-- V142. -/
theorem test_sle_V142 : after (start 0x0001 0xFFFF 0x7FF0 0x8000 0x0100 [0xB7] []) fun t =>
    t.a = 0x0000 ∧ t.pc = 0x0101 := by decide

/-- V143. -/
theorem test_sle_V143 : after (start 0x8000 0x8000 0x7FF0 0x8000 0x0100 [0xB7] []) fun t =>
    t.a = 0x0001 ∧ t.pc = 0x0101 := by decide

/-- V145. -/
theorem test_sgt_V145 : after (start 0x0001 0xFFFF 0x7FF0 0x8000 0x0100 [0xB8] []) fun t =>
    t.pc = 0x0101 := by decide

/-- V146. -/
theorem test_sgt_V146 : after (start 0x8000 0x8000 0x7FF0 0x8000 0x0100 [0xB8] []) fun t =>
    t.a = 0x0000 ∧ t.pc = 0x0101 := by decide

/-- V149. -/
theorem test_sge_V149 : after (start 0x8000 0x8000 0x7FF0 0x8000 0x0100 [0xB9] []) fun t =>
    t.a = 0x0001 ∧ t.pc = 0x0101 := by decide

/-- The rule of `sge` by hand: 0x8000 against 0x7FFF. -/
theorem test_sge_byHand : after (start 0x8000 0x7FFF 0x7FF0 0x8000 0x0100 [0xB9] []) fun t =>
    t.a = 0 := by decide

/-- V151. -/
theorem test_sxa_V151 : after (start 0x1280 0x0000 0x7FF0 0x8000 0x0100 [0xBA] []) fun t =>
    t.a = 0xFF80 ∧ t.pc = 0x0101 := by decide

/-- V152. -/
theorem test_sxa_V152 : after (start 0xFF7F 0x0000 0x7FF0 0x8000 0x0100 [0xBA] []) fun t =>
    t.a = 0x007F ∧ t.pc = 0x0101 := by decide

/-- V153. -/
theorem test_zxa_V153 : after (start 0xFF80 0x0000 0x7FF0 0x8000 0x0100 [0xBB] []) fun t =>
    t.a = 0x0080 ∧ t.pc = 0x0101 := by decide

/-- V154. -/
theorem test_sxb_V154 : after (start 0x1111 0x00FE 0x7FF0 0x8000 0x0100 [0xBC] []) fun t =>
    t.b = 0xFFFE ∧ t.pc = 0x0101 := by decide

/-- V155. -/
theorem test_zxb_V155 : after (start 0x0000 0xABCD 0x7FF0 0x8000 0x0100 [0xBD] []) fun t =>
    t.b = 0x00CD ∧ t.pc = 0x0101 := by decide

/-- V157. -/
theorem test_jmpRel8_V157 : after (start 0x0000 0x0000 0x7FF0 0x8000 0x0040 [0xD9, 0xFF] []) fun t =>
    t.pc = 0x0042 := by decide

/-- V159. -/
theorem test_jmpRel8_V159 : after (start 0x0000 0x0000 0x7FF0 0x8000 0x0040 [0xD9, 0x7F] []) fun t =>
    t.pc = 0xFFC2 := by decide

/-- V161. -/
theorem test_jzRel8_V161 : after (start 0x0000 0x0000 0x7FF0 0x8000 0x0040 [0xDA, 0x05] []) fun t =>
    t.pc = 0x003C := by decide

/-- V162. -/
theorem test_jzRel8_V162 : after (start 0x0001 0x0000 0x7FF0 0x8000 0x0040 [0xDA, 0x05] []) fun t =>
    t.pc = 0x0042 := by decide

/-- V163. -/
theorem test_jnzRel8_V163 : after (start 0x0002 0x0000 0x7FF0 0x8000 0x0040 [0xDB, 0xF0] []) fun t =>
    t.pc = 0x0051 := by decide

/-- V164. -/
theorem test_jnzRel8_V164 : after (start 0x0000 0x0000 0x7FF0 0x8000 0x0040 [0xDB, 0xF0] []) fun t =>
    t.pc = 0x0042 := by decide

/-- V165. -/
theorem test_jmpAbs_V165 : after (start 0x0000 0x0000 0x7FF0 0x8000 0x0100 [0xD6, 0x34, 0x12] []) fun t =>
    t.pc = 0x1234 := by decide

/-- V167. -/
theorem test_jzAbs_V167 : after (start 0x0001 0x0000 0x7FF0 0x8000 0x0010 [0xD7, 0x00, 0x01] []) fun t =>
    t.pc = 0x0013 := by decide

/-- V168. -/
theorem test_jzAbs_V168 : after (start 0x0000 0x0000 0x7FF0 0x8000 0x0010 [0xD7, 0x00, 0x01] []) fun t =>
    t.pc = 0x0100 := by decide

/-- V169. -/
theorem test_jnzAbs_V169 : after (start 0x8000 0x0000 0x7FF0 0x8000 0x0010 [0xD8, 0x00, 0x01] []) fun t =>
    t.pc = 0x0100 := by decide

/-- V170. -/
theorem test_jnzAbs_V170 : after (start 0x0000 0x0000 0x7FF0 0x8000 0x0010 [0xD8, 0x00, 0x01] []) fun t =>
    t.pc = 0x0013 := by decide

/-- V174. -/
theorem test_switchrange_V174 : after (start 0x0000 0x0000 0x7FF0 0x8000 0x0100 [0xD4, 0x01, 0x00, 0x03, 0x00, 0x00, 0x02, 0x00, 0x03, 0x10, 0x03, 0x20, 0x03, 0xEE, 0xEE] []) fun t =>
    t.pc = 0x0200 := by decide

/-- V175. -/
theorem test_switchrange_V175 : after (start 0x0004 0x0000 0x7FF0 0x8000 0x0100 [0xD4, 0x01, 0x00, 0x03, 0x00, 0x00, 0x02, 0x00, 0x03, 0x10, 0x03, 0x20, 0x03, 0xEE, 0xEE] []) fun t =>
    t.pc = 0xEEEE := by decide

/-- V178. -/
theorem test_switchlist_V178 : after (start 0x0009 0x0000 0x7FF0 0x8000 0x0100 [0xD5, 0x02, 0x05, 0x00, 0x00, 0x02, 0x09, 0x00, 0x10, 0x02, 0x20, 0x02] []) fun t =>
    t.pc = 0x0210 := by decide

/-- V179. -/
theorem test_switchlist_V179 : after (start 0x0007 0x0000 0x7FF0 0x8000 0x0100 [0xD5, 0x02, 0x05, 0x00, 0x00, 0x02, 0x09, 0x00, 0x10, 0x02, 0x20, 0x02] []) fun t =>
    t.pc = 0x0220 := by decide

/-- V182. -/
theorem test_portIn_V182 : after { start 0x1234 0x0000 0x7FF0 0x8000 0x0100 [0xC8, 0x00] [] with input := [.byte 0x41] } fun t =>
    t.a = 0x0041 ∧ t.pc = 0x0102 ∧ t.events.getLast? = some (.input 0x0100) := by decide

/-- V183. -/
theorem test_portIn_V183 : after (start 0x1234 0x0000 0x7FF0 0x8000 0x0100 [0xC8, 0x01] []) fun t =>
    t.pc = 0x0102 := by decide

/-- V184. -/
theorem test_portOut_V184 : after (start 0x1248 0x0000 0x7FF0 0x8000 0x0100 [0xC9, 0x00] []) fun t =>
    t.pc = 0x0102 ∧ t.events.getLast? = some (.output 0x48) := by decide

/-- V185. -/
theorem test_portOut_V185 : after (start 0x1248 0x0000 0x7FF0 0x8000 0x0100 [0xC9, 0x07] []) fun t =>
    t.pc = 0x0102 := by decide

/-- V187. -/
theorem test_bcopy_V187 : after (start 0x2001 0x2000 0x7FF0 0x8000 0x0100 [0xC4, 0x03, 0x00] [(0x2000, 0x01), (0x2001, 0x02), (0x2002, 0x03)]) fun t =>
    t.pc = 0x0103 ∧ bytesAt t [0x2001, 0x2002, 0x2003] = [0x01, 0x01, 0x01] := by decide

/-- V190. -/
theorem test_bcopy_V190 : after (start 0xFFFF 0x2000 0x7FF0 0x8000 0x0100 [0xC4, 0x02, 0x00] [(0x2000, 0x07), (0x2001, 0x08)]) fun t =>
    t.pc = 0x0103 ∧ bytesAt t [0xFFFF, 0x0000] = [0x07, 0x08] := by decide

/-- V191. -/
theorem test_bfill_V191 : after (start 0x3000 0x01AA 0x7FF0 0x8000 0x0100 [0xC5, 0x02, 0x00] []) fun t =>
    t.pc = 0x0103 ∧ bytesAt t [0x3000, 0x3001] = [0xAA, 0xAA] := by decide

/-- V192. -/
theorem test_bcmp_V192 : after (start 0x2000 0x3000 0x7FF0 0x8000 0x0100 [0xC6, 0x02, 0x00] [(0x2000, 0x01), (0x2001, 0x02), (0x3000, 0x01), (0x3001, 0x03)]) fun t =>
    t.a = 0x0000 ∧ t.pc = 0x0103 := by decide

/-- V193. -/
theorem test_bcmp_V193 : after (start 0x2000 0x3000 0x7FF0 0x8000 0x0100 [0xC6, 0x02, 0x00] [(0x2000, 0x01), (0x2001, 0x02), (0x3000, 0x01), (0x3001, 0x02)]) fun t =>
    t.a = 0x0001 ∧ t.pc = 0x0103 := by decide

/-- V195. -/
theorem test_sloadbf_V195 : after (start 0x0000 0xABCD 0x7FF0 0x8000 0x0100 [0xC0, 0x47] []) fun t =>
    t.a = 0xFFBC ∧ t.pc = 0x0102 := by decide

/-- V202. -/
theorem test_sloadbf_V202 : after (start 0x0000 0xF000 0x7FF0 0x8000 0x0100 [0xC0, 0xC7] []) fun t =>
    t.a = 0x000F ∧ t.pc = 0x0102 := by decide

/-- V196. -/
theorem test_uloadbf_V196 : after (start 0x0000 0xABCD 0x7FF0 0x8000 0x0100 [0xC1, 0x47] []) fun t =>
    t.a = 0x00BC ∧ t.pc = 0x0102 := by decide

/-- V199. -/
theorem test_uloadbf_V199 : after (start 0x0000 0x8000 0x7FF0 0x8000 0x0100 [0xC1, 0xF0] []) fun t =>
    t.a = 0x0001 ∧ t.pc = 0x0102 := by decide

/-- V197. -/
theorem test_storebf_V197 : after (start 0x0012 0xABCD 0x7FF0 0x8000 0x0100 [0xC2, 0x47] []) fun t =>
    t.b = 0xA12D ∧ t.pc = 0x0102 := by decide

/-- V203. -/
theorem test_storebf_V203 : after (start 0x00FF 0x0000 0x7FF0 0x8000 0x0100 [0xC2, 0xC7] []) fun t =>
    t.b = 0xF000 ∧ t.pc = 0x0102 := by decide

/-- V206, V209, V212. -/
theorem test_dcount_V206_V209_V212 :
    (after (start 0x0000 0x0000 0x7FF0 0x8000 0x0100 [0xC3, 0x0B] [(0x2000, 0x48), (0x7FFE, 0x00), (0x7FFF, 0x20)]) fun t =>
      t.a = 0x0048 ∧ t.pc = 0x0102 ∧ bytesAt t [0x7FFE, 0x7FFF] = [0x01, 0x20]) ∧
    (after (start 0x0000 0x0000 0x7FF0 0x8000 0x0100 [0xC3, 0xBB] [(0x2000, 0x21), (0x2001, 0x43), (0x7FFE, 0x02), (0x7FFF, 0x20)]) fun t =>
      t.a = 0x4321 ∧ t.pc = 0x0102 ∧ bytesAt t [0x7FFE, 0x7FFF] = [0x00, 0x20]) ∧
    (after (start 0x0000 0x0000 0x7FF0 0x8000 0x0100 [0xC3, 0x1B] [(0x7FFE, 0xFE), (0x7FFF, 0x7F)]) fun t =>
      t.a = 0x7FFE ∧ t.pc = 0x0102 ∧ bytesAt t [0x7FFE, 0x7FFF] = [0x00, 0x80]) := by decide

/-- V208, V210, V211. -/
theorem test_dcount_V208_V210_V211 :
    (after (start 0x0155 0x0000 0x7FF0 0x8000 0x0100 [0xC3, 0x6B] [(0x7FFE, 0x00), (0x7FFF, 0x20)]) fun t =>
      t.pc = 0x0102 ∧ bytesAt t [0x2000, 0x7FFE, 0x7FFF] = [0x55, 0xFF, 0x1F]) ∧
    (after (start 0x1234 0x0000 0x7FF0 0x8000 0x0100 [0xC3, 0xFB] [(0x7FFE, 0x00), (0x7FFF, 0x20)]) fun t =>
      t.pc = 0x0102 ∧ bytesAt t [0x7FFE, 0x7FFF, 0x1FFE, 0x1FFF] = [0xFE, 0x1F, 0x34, 0x12]) ∧
    (after (start 0xBEEF 0x0000 0x7FF0 0x8000 0x0100 [0xC3, 0xDC] [(0x8004, 0xFE), (0x8005, 0xFF)]) fun t =>
      t.pc = 0x0102 ∧ bytesAt t [0x8004, 0x8005, 0x0000, 0x0001] = [0x00, 0x00, 0xEF, 0xBE]) := by decide

/-- V213. -/
theorem test_nop_V213 : after (start 0x0001 0x0002 0x7FF0 0x8000 0x0100 [0x8F] []) fun t =>
    t.pc = 0x0101 := by decide

/-- V214. -/
theorem test_nop_V214 : after (start 0x0000 0x0000 0x7FF0 0x8000 0x0100 [0xFF] []) fun t =>
    t.pc = 0x0101 := by decide

/-- V215. -/
theorem test_illegal_V215 : after (start 0x0000 0x0000 0x7FF0 0x8000 0x0100 [0xE0, 0x45] []) fun t =>
    t.pc = 0x0101 ∧ t.events.getLast? = some (.illegalOpcode 0xE0 0x0100) := by decide

/-- V217. -/
theorem test_illegal_V217 : after (start 0x0000 0x0000 0x7FF0 0x8000 0x0100 [0xCA, 0xFF, 0xFF] []) fun t =>
    t.pc = 0x0101 ∧ t.events.getLast? = some (.illegalOpcode 0xCA 0x0100) := by decide

/-! ## Witnesses: the hypotheses of each obligation can be met -/

/-- `StepRunsDecodedInstruction`: a Faulted state, and a Running one whose window decodes. -/
theorem witness_StepRunsDecodedInstruction :
    (State.reset.setStatus (.faulted (.divideByZero 0 0xA4))).status = .faulted (.divideByZero 0 0xA4) ∧
    State.reset.status = .running ∧ ∃ rest, decode State.reset.params.opmap State.reset.fetchWindow = .ok (.jmpRel8 0x01, rest) :=
  ⟨rfl, rfl, _, rfl⟩

/-- `StepRunsInstructionAtPc`: at the top of memory, where the instruction's second byte is at address 0. -/
theorem witness_StepRunsInstructionAtPc :
    let s := { State.reset with pc := 0xFFFF, mem := [(0x0000, 0x05), (0xFFFF, 0xDA)] }
    opmapWf s.params.opmap ∧ (Instr.jzRel8 0x05).wellFormed s.params.opmap = true ∧ s.status = .running ∧
    s.bytesFrom s.pc (encode s.params.opmap (.jzRel8 0x05)).length = encode s.params.opmap (.jzRel8 0x05) :=
  ⟨defaultOpmap_wf, by decide⟩

/-- `RunningEngineAlwaysSteps`: with and without a byte waiting. -/
theorem witness_RunningEngineAlwaysSteps :
    State.reset.status = .running ∧ State.reset.hostAnswers ∧ (State.reset.setInput [.byte 0x41, .silent]).hostAnswers := by
  simp [State.hostAnswers, State.reset, State.setInput]

/-- `StepKeepsInvariant`: from a state that meets the invariant, a step that leaves the engine Faulted. -/
theorem witness_StepKeepsInvariant :
    ∃ s t : State, s.Inv ∧ step s = .next t ∧ t.status = .faulted (.divideByZero 0x0100 0xA4) := by
  obtain ⟨t, h, e⟩ := exists_of_holdsNext (p := fun t => t.status = .faulted (.divideByZero 0x0100 0xA4))
    (show holdsNext (step (start 5 0 0x7FF0 0x8000 0x0100 [0xA4] [])) _ = true by decide)
  exact ⟨_, t, ⟨by decide, defaultOpmap_wf, by intro _ _ h; cases h⟩, h, of_decide_eq_true e⟩

/-- `StepTellsTraceThenAtMostOneEvent`: a step with the snapshot alone, and one with an event after it. -/
theorem witness_StepTellsTraceThenAtMostOneEvent :
    (∃ t, step State.reset = .next t ∧ t.events.length = 1) ∧
    ∃ t, step (start 0x48 0 0x7FF0 0x8000 0x0100 [0xC9, 0x00] []) = .next t ∧ t.events.length = 2 := by
  obtain ⟨t, h, e⟩ := exists_of_holdsNext (p := fun t => t.events.length = 1)
    (show holdsNext (step State.reset) _ = true by decide)
  obtain ⟨u, h', e'⟩ := exists_of_holdsNext (p := fun t => t.events.length = 2)
    (show holdsNext (step (start 0x48 0 0x7FF0 0x8000 0x0100 [0xC9, 0x00] [])) _ = true by decide)
  exact ⟨⟨t, h, of_decide_eq_true e⟩, u, h', of_decide_eq_true e'⟩

/-- `DecoderIsTotal`: 1023 bytes after the opcode are enough, and 1022 are not for SWITCHLIST. -/
theorem witness_DecoderIsTotal :
    opmapWf defaultOpmap ∧ maxLength ≤ (List.replicate 1023 (0xFF : Byte)).length + 1 ∧
    decode defaultOpmap (0xD5 :: List.replicate 1022 0xFF) = .error (.truncated 0xD5) :=
  ⟨defaultOpmap_wf, by decide +kernel⟩

/-- `DecodeInvertsEncode`: the longest SWITCHLIST and the outermost reserved and illegal codes are well formed. -/
theorem witness_DecodeInvertsEncode :
    opmapWf defaultOpmap ∧
    (Instr.switchlist (List.replicate 255 (0xFFFF, 0x0000)) 0x0100).wellFormed defaultOpmap = true ∧
    (Instr.nop 0xFF).wellFormed defaultOpmap = true ∧ (Instr.illegal 0xBE).wellFormed defaultOpmap = true ∧
    (Instr.illegal 0xFE).wellFormed defaultOpmap = true :=
  ⟨defaultOpmap_wf, by decide +kernel⟩

/-- `EncodeInvertsDecode`: some bytes that decode. -/
theorem witness_EncodeInvertsDecode :
    opmapWf defaultOpmap ∧ decode defaultOpmap [0x88, 0x34, 0x12, 0x00] = .ok (.staAbs 0x1234, [0x00]) :=
  ⟨defaultOpmap_wf, rfl⟩

/-- `OpmapDecidesReservedAndIllegal`: the first and last codes of each kind, and the last tier-1 byte. -/
theorem witness_OpmapDecidesReservedAndIllegal :
    ((0x8F : Byte).msb = true ∧ kindAt defaultOpmap 0x8F = .reservedNop) ∧
    ((0xFF : Byte).msb = true ∧ kindAt defaultOpmap 0xFF = .reservedNop) ∧
    ((0xBE : Byte).msb = true ∧ kindAt defaultOpmap 0xBE = .illegal) ∧
    ((0xFE : Byte).msb = true ∧ kindAt defaultOpmap 0xFE = .illegal) ∧ (0x7F : Byte).msb = false := by decide

/-- `StoreIsSeenByNextFetch`: a STAB_ABS at 0x0100 that stores at 0x0103. -/
theorem witness_StoreIsSeenByNextFetch :
    (0x0103 : Word) = (start 0x96 0 0 0 0x0100 [0x8E, 0x03, 0x01] []).pc + 3 ∧
    ∃ t, exec (.stabAbs 0x0103) (start 0x96 0 0 0 0x0100 [0x8E, 0x03, 0x01] []) = .next t := ⟨by decide, _, rfl⟩

/-- `HostResetEstablishesState`: with an image of one byte, an address inside it and the first one past it. -/
theorem witness_HostResetEstablishesState :
    (0x0000 : Word).toNat < [(0x07 : Byte)].length ∧ [(0x07 : Byte)].length ≤ (0x0001 : Word).toNat := by decide

/-- `ReservedAndIllegalCodes`: a byte at each end of each illegal range. -/
theorem witness_ReservedAndIllegalCodes :
    (0xBE : Byte).toNat = 0xBE ∧ (0xBF : Byte).toNat = 0xBF ∧
    0xCA ≤ (0xCA : Byte).toNat ∧ (0xCF : Byte).toNat ≤ 0xCF ∧ 0xDC ≤ (0xDC : Byte).toNat ∧ (0xFE : Byte).toNat ≤ 0xFE := by
  decide

/-- `DivisionByNonzero`: the divisors at both ends. -/
theorem witness_DivisionByNonzero :
    (State.reset.setB 0x0001).b ≠ 0 ∧ (State.reset.setB 0xFFFF).b ≠ 0 := by decide

/-- `DivisionByZero`: a zero divisor under each policy. -/
theorem witness_DivisionByZero :
    let s := { State.reset with params := { Config.defaultParams with div0 := .value } }
    (State.reset.b = 0 ∧ State.reset.params.div0 = .fault) ∧ s.b = 0 ∧ s.params.div0 = .value := by decide

/-- `SelfLoopParks`: the machine right after reset (R32). -/
theorem witness_SelfLoopParks :
    kindAt State.reset.params.opmap 0xD9 = .jmpRel8 ∧ State.reset.status = .running ∧
    State.reset.readByte State.reset.pc = 0xD9 ∧
    State.reset.readByte (State.reset.pc + 1) = 0x01 := by decide

/-- `SwitchrangeLiteral`: the selector one below the range, with the instruction's bytes at PC (V174). -/
theorem witness_SwitchrangeLiteral :
    let s := start 0x0000 0 0x7FF0 0x8000 0x0100 [0xD4, 0x01, 0x00, 0x03, 0x00, 0x00, 0x02] []
    s.params.switchRange = .literal ∧ s.a = 1 - 1 ∧ s.bytesFrom s.pc 7 = encode s.params.opmap (.switchrange 1 3 0x0200) := by
  decide

/-- `SwitchrangeIntended`: selectors just outside and at both ends of the signed range. -/
theorem witness_SwitchrangeIntended :
    let s := { State.reset with params := { Config.defaultParams with switchRange := .intended } }
    s.params.switchRange = .intended ∧
    holdsNext (exec (.switchrange 1 3 0x0200) (s.setA 0x0000)) (fun t => t.pc = 0x0200) ∧
    holdsNext (exec (.switchrange 1 3 0x0200) (s.setA 0x0004)) (fun t => t.pc = 0x0200) ∧
    holdsNext (exec (.switchrange 0 3 0x0200) (s.setA 0x0003)) (fun t => t.pc = s.readWord 0x000D) ∧
    holdsNext (exec (.switchrange 1 3 0x0200) (s.setA 0x8001)) (fun t => t.pc = 0x0200) := by decide

/-- `SwitchlistTakesFirstMatch`: pairs before the match that differ from the selector, and none at all. -/
theorem witness_SwitchlistTakesFirstMatch :
    (∀ p ∈ [((0x0005 : Word), (0x0200 : Word))], p.1 ≠ (State.reset.setA 0x0009).a) ∧
    (∀ p ∈ ([] : List (Word × Word)), p.1 ≠ State.reset.a) := by
  simp [State.setA]

/-- `PortInput`: a byte, end of input, a host that never answers, and the last port. -/
theorem witness_PortInput :
    (State.reset.setInput [.byte 0x41]).input = .byte 0x41 :: [] ∧ State.reset.input = [] ∧
    (State.reset.setInput [.silent]).input = .silent :: [] ∧ (0x01 : Byte) ≠ 0 ∧ (0xFF : Byte) ≠ 0 := by decide

/-- `BlockCopy`: an address outside the block and an offset inside it. -/
theorem witness_BlockCopy :
    let s := State.reset
    (0x0003 : Word).toNat ≤ ((0x0003 : Word) - s.a).toNat ∧ (0x0002 : Word).toNat < (0x0003 : Word).toNat := by decide

/-- `BlockCompare`: equal blocks (a block against itself), and blocks that differ in the last byte. -/
theorem witness_BlockCompare :
    let s := State.reset.setB 0x0001
    (∀ k : Word, k < 2 → State.reset.readByte (State.reset.a + k) = State.reset.readByte (State.reset.b + k)) ∧
    ∃ k : Word, k < 1 ∧ s.readByte (s.a + k) ≠ s.readByte (s.b + k) :=
  ⟨fun _ _ => rfl, 0, by decide, by decide⟩

/-- `StoredFieldLoadsBack`: the widest field and the highest one. -/
theorem witness_StoredFieldLoadsBack :
    (0 : Nibble).toNat + (15 : Nibble).toNat + 1 ≤ 16 ∧ (15 : Nibble).toNat + (0 : Nibble).toNat + 1 ≤ 16 := by decide

/-- `FpWrittenOnlyByCallsAndReturn`: an instruction that is neither and completes. -/
theorem witness_FpWrittenOnlyByCallsAndReturn :
    (∃ t, exec .pusha State.reset = .next t) ∧ Instr.pusha.isCallOrReturn = false := ⟨⟨_, rfl⟩, rfl⟩

/-- `RegistersAndMemoryWrittenOnlyByTheirWriters`: an instruction outside all three sets completes. -/
theorem witness_RegistersAndMemoryWrittenOnlyByTheirWriters :
    (∃ t, exec .add State.reset = .next t) ∧
    Instr.add.mayWriteSp = false ∧ Instr.add.mayWriteB = false ∧ Instr.add.mayStore = false := ⟨⟨_, rfl⟩, rfl, rfl, rfl⟩

/-- `NonTransferAdvancesPcByLength`: a three-byte instruction that completes. -/
theorem witness_NonTransferAdvancesPcByLength :
    (Instr.bfill 0xFFFF).isTransfer = false ∧ ∃ t, exec (.ldaI16 0x1234) State.reset = .next t := ⟨rfl, _, rfl⟩

/-- `StatusChangesOnlyAtDivideByZero`: a divide at reset, where B is 0 and the policy is fault. -/
theorem witness_StatusChangesOnlyAtDivideByZero :
    ∃ t, exec .mods State.reset = .next t ∧ t.status ≠ State.reset.status := by
  refine ⟨_, rfl, ?_⟩
  decide

end Sys2Proof.Tests
end

