-- ==== Sys2Proof/Proofs/Memory.lean ====
section
/-! PROOF. Family `20_memory.md`: what a byte and a word access do to memory (R41, R42), and the return that undoes the
call before it (R56). -/

namespace Sys2Proof.Machine

/-! ## Byte and word accesses -/

/-- The byte order of R41, in the words of the rule: the high byte is shifted up by 8 and or-ed with the low byte. -/
theorem joinBytes_eq_or_shiftLeft (lo hi : Byte) :
    joinBytes lo hi = lo.zeroExtend 16 ||| (hi.zeroExtend 16 <<< 8) := by
  rw [BitVec.or_comm, ← BitVec.setWidth_append_eq_shiftLeft_setWidth_or, BitVec.setWidth_eq, joinBytes]

theorem State.writeByte_fields (s : State) (x : Word) (v : Byte) : { s.writeByte x v with mem := s.mem } = s := rfl

theorem State.writeWord_fields (s : State) (x v : Word) : { s.writeWord x v with mem := s.mem } = s := rfl

/-! ## The frame a call leaves on the stack -/

/-- A word read after a call, through the two words it pushed. -/
theorem State.call_readWord (s : State) (target y : Word) :
    (s.call target).readWord y = wordOf (storedWord (storedWord s.readByte (s.sp - 1) s.pc) (s.sp - 3) s.fp) y :=
  wordOf_congr (s.call_readByte target) y

/-- The new FP points at the caller's FP (R55). -/
theorem State.call_readWord_fp (s : State) (target : Word) :
    (s.call target).readWord (s.call target).fp = s.fp := by
  rw [State.call_readWord, State.call_fp, wordOf_storedWord]

/-- The return address stands two cells above the new FP (R55): the push of FP does not reach it at any SP, since the
two words take four different cells modulo 2^16. -/
theorem State.call_readWord_fp_add_two (s : State) (target : Word) :
    (s.call target).readWord ((s.call target).fp + 2) = s.pc := by
  have hslot : s.sp - 3 + 2 = s.sp - 1 := by bv_omega
  rw [State.call_readWord, State.call_fp, hslot,
    wordOf_storedWord_of_ne _ _ (by bv_omega) (by bv_omega) (by bv_omega), wordOf_storedWord]

/-- A return right after a call gives back PC, FP and SP (R56). -/
theorem State.ret_call_registers (s : State) (target : Word) :
    (s.call target).ret.pc = s.pc ∧ (s.call target).ret.fp = s.fp ∧ (s.call target).ret.sp = s.sp := by
  have hsp : s.sp - 3 + 3 = s.sp := by bv_omega
  rw [State.ret_eq, State.call_readWord_fp, State.call_readWord_fp_add_two, State.call_fp, hsp]
  exact ⟨rfl, rfl, rfl⟩

end Sys2Proof.Machine

namespace Sys2Proof

open Machine

/-- Settles O16, by the read-after-write laws of the memory list. -/
theorem memoryReadsAndWrites : Obligations.MemoryReadsAndWrites := fun s x y v w =>
  ⟨rfl, joinBytes_eq_or_shiftLeft _ _, Memory.read_write s.mem x y w, Memory.read_writeWord s.mem x y v,
    s.writeByte_fields x w, s.writeWord_fields x v⟩

/-- Settles O19: the frame words a call pushed are the ones that the return reads back. -/
theorem returnUndoesCall : Obligations.ReturnUndoesCall := fun s => ⟨s.ret_eq, s.ret_call_registers⟩

end Sys2Proof
end

