-- ==== Sys2Proof/Proofs/Nibble.lean ====
section
/-! PROOF. Family `40_nibble_block.md`: the immediates in the nibble block (R104, R105, R107), by the form that every
instruction completes in when all it does is to write one register and pass its own bytes. -/

namespace Sys2Proof.Machine

/-! ## Completing with memory left as it is -/

/-- An answered state that has the memory list of the state before reads as before in every cell. -/
theorem completes_of_mem_eq {i : Instr} {s e : State} (h : exec i s = .next e) (hmem : e.mem = s.mem) :
    Completes i s e s.readByte :=
  ⟨e, h, rfl, fun x => congrArg (·.read x) hmem⟩

/-- An instruction of `n` bytes that writes A alone. -/
theorem completes_of_exec_setA {i : Instr} {s : State} {n : Nat} {v : Word}
    (h : exec i s = .next ((s.advance n).setA v)) :
    Completes i s { s with a := v, pc := s.pc + BitVec.ofNat 16 n } s.readByte :=
  completes_of_mem_eq h rfl

/-- An instruction of `n` bytes that writes B alone. -/
theorem completes_of_exec_setB {i : Instr} {s : State} {n : Nat} {v : Word}
    (h : exec i s = .next ((s.advance n).setB v)) :
    Completes i s { s with b := v, pc := s.pc + BitVec.ofNat 16 n } s.readByte :=
  completes_of_mem_eq h rfl

/-! ## The immediates -/

/-- Zero extension keeps the number that the nibble stands for. -/
theorem zextNibble_eq_ofNat (n : Nibble) : zextNibble n = BitVec.ofNat 16 n.toNat :=
  (BitVec.ofNat_toNat 16 n).symm

theorem exec_ldaI4 (n : Nibble) (s : State) :
    exec (.ldaI4 n) s = .next ((s.advance 1).setA (BitVec.ofNat 16 n.toNat)) := by
  rw [← zextNibble_eq_ofNat]; rfl

theorem exec_ldbI4 (n : Nibble) (s : State) :
    exec (.ldbI4 n) s = .next ((s.advance 1).setB (BitVec.ofNat 16 n.toNat)) := by
  rw [← zextNibble_eq_ofNat]; rfl

theorem exec_addI4 (n : Nibble) (s : State) :
    exec (.addI4 n) s = .next ((s.advance 1).setA (s.a + BitVec.ofNat 16 n.toNat)) := by
  rw [← zextNibble_eq_ofNat]; rfl

end Sys2Proof.Machine

namespace Sys2Proof

open Machine

/-- Settles O21: each of the three writes one register and passes its one byte. -/
theorem nibbleImmediates : Obligations.NibbleImmediates := fun s n =>
  ⟨completes_of_exec_setA (exec_ldaI4 n s), completes_of_exec_setB (exec_ldbI4 n s),
    completes_of_exec_setA (exec_addI4 n s)⟩

end Sys2Proof
end

section
/-! PROOF. Family `42_stack_calls.md`: RET completes with the registers that the frame at FP holds (R163). -/

namespace Sys2Proof.Machine

/-- RET passes its byte and then returns through the frame at FP: FP stands as it was when PC moved, and the PC it moved
to is overwritten. -/
theorem exec_ret (s : State) :
    exec .ret s =
      .next { s with sp := s.fp + 3, fp := s.readWord s.fp, pc := s.readWord (s.fp + 2) } := by
  have hexec : exec .ret s = .next (s.advance 1).ret := rfl
  rw [hexec, State.ret_eq]
  rfl

end Sys2Proof.Machine

namespace Sys2Proof

open Machine

/-- Settles O31: a return writes three registers and leaves the memory list as it is. -/
theorem returnReadsFrame : Obligations.ReturnReadsFrame := fun s =>
  completes_of_mem_eq (exec_ret s) rfl

end Sys2Proof
end

section
/-! PROOF. Family `43_alu.md`: the extensions of a register's own low byte (R215 to R218). -/

namespace Sys2Proof.Machine

/-! ## The two extensions of a low byte -/

/-- Sign extension keeps the signed number that the byte stands for. -/
theorem sext16_eq_ofInt (v : Byte) : sext16 v = BitVec.ofInt 16 v.toInt := rfl

/-- Zero extension of the low byte clears bits 15..8: both sides are the word modulo 2^8. -/
theorem zext16_lowByte_eq_and (v : Word) : zext16 (lowByte v) = v &&& 0x00FF := by
  apply BitVec.eq_of_toNat_eq
  have hmask : v.toNat &&& 255 = v.toNat % 256 := Nat.and_two_pow_sub_one_eq_mod v.toNat 8
  have hext : (zext16 (lowByte v)).toNat = (lowByte v).toNat :=
    BitVec.toNat_setWidth_of_le (by decide)
  rw [hext, toNat_lowByte, BitVec.toNat_and]
  exact hmask.symm

/-! ## The instructions -/

theorem exec_sxa (s : State) :
    exec .sxa s = .next ((s.advance 1).setA (BitVec.ofInt 16 (lowByte s.a).toInt)) := by
  rw [← sext16_eq_ofInt]; rfl

theorem exec_zxa (s : State) : exec .zxa s = .next ((s.advance 1).setA (s.a &&& 0x00FF)) := by
  rw [← zext16_lowByte_eq_and]; rfl

theorem exec_sxb (s : State) :
    exec .sxb s = .next ((s.advance 1).setB (BitVec.ofInt 16 (lowByte s.b).toInt)) := by
  rw [← sext16_eq_ofInt]; rfl

theorem exec_zxb (s : State) : exec .zxb s = .next ((s.advance 1).setB (s.b &&& 0x00FF)) := by
  rw [← zext16_lowByte_eq_and]; rfl

end Sys2Proof.Machine

namespace Sys2Proof

open Machine

/-- Settles O39: each of the four writes the extended low byte back to its register and passes its one byte. -/
theorem extensions : Obligations.Extensions := fun s =>
  ⟨completes_of_exec_setA (exec_sxa s), completes_of_exec_setA (exec_zxa s),
    completes_of_exec_setB (exec_sxb s), completes_of_exec_setB (exec_zxb s)⟩

end Sys2Proof
end

section
/-! PROOF. Family `44_control.md`: the literal SWITCHRANGE takes PC from the table whatever the selector is, and one
below the range the table word is the default operand (R237). -/

namespace Sys2Proof.Machine

/-! ## An operand word where it stands in memory -/

/-- The word read where two bytes of an encoding stand is the word they encode (R61). -/
theorem State.readWord_of_bytesFrom_two {s : State} {x w : Word} (h : s.bytesFrom x 2 = wordBytes w) :
    s.readWord x = w := by
  obtain ⟨hlo, hhi⟩ : s.readByte x = lowByte w ∧ s.readByte (x + 1) = highByte w := by
    simpa [State.bytesFrom, wordBytes] using h
  rw [State.readWord, hlo, hhi, joinBytes_low_high]

/-- The same for a word that stands last, after the bytes `pre`. -/
theorem State.readWord_of_bytesFrom_append {s : State} {x w : Word} {pre : List Byte}
    (h : s.bytesFrom x (pre.length + 2) = pre ++ wordBytes w) :
    s.readWord (x + BitVec.ofNat 16 pre.length) = w := by
  rw [State.bytesFrom_add] at h
  exact readWord_of_bytesFrom_two (List.append_inj_right h (s.bytesFrom_length x pre.length))

/-! ## SWITCHRANGE -/

theorem exec_switchrange_literal {s : State} (low high dflt : Word) (h : s.params.switchRange = .literal) :
    exec (.switchrange low high dflt) s = .next (s.setPc (tableTarget s low)) := by
  have hexec : exec (.switchrange low high dflt) s = execSwitchrange low high dflt s := rfl
  rw [hexec, execSwitchrange, h]

/-- One below the range the table index is -1: the word two bytes before the table, at `opaddr + 5`. -/
theorem tableTarget_of_selector_below {s : State} {low : Word} (h : s.a = low - 1) :
    tableTarget s low = s.readWord (s.pc + 5) := by
  have haddr : s.pc + 7 + 2 * (low - 1 - low) = s.pc + 5 := by bv_omega
  rw [tableTarget, h, haddr]

/-- The default operand of a SWITCHRANGE whose bytes are at PC stands after the opcode and the two bounds. -/
theorem readWord_switchrange_default {s : State} {low high dflt : Word}
    (h : s.bytesFrom s.pc 7 = encode s.params.opmap (.switchrange low high dflt)) :
    s.readWord (s.pc + 5) = dflt :=
  State.readWord_of_bytesFrom_append
    (pre := opcode s.params.opmap (.switchrange low high dflt) :: (wordBytes low ++ wordBytes high)) h

end Sys2Proof.Machine

namespace Sys2Proof

open Machine

/-- Settles O43: both clauses are the one unconditional table read; in the second the word it reads is the default. -/
theorem switchrangeLiteral : Obligations.SwitchrangeLiteral := by
  intro s low high dflt hliteral
  have hexec := exec_switchrange_literal low high dflt hliteral
  refine ⟨completes_of_mem_eq hexec rfl, fun hsel hbytes => ?_⟩
  have htarget : tableTarget s low = dflt :=
    (tableTarget_of_selector_below hsel).trans (readWord_switchrange_default hbytes)
  rw [htarget] at hexec
  exact completes_of_mem_eq hexec rfl

end Sys2Proof
end

section
/-! PROOF. Family `60_exceptions.md`: the illegal opcode is a diagnostic, not a trap (R312). -/

namespace Sys2Proof.Machine

/-- ILLEGAL passes its one byte and then reports the address it started at; the report leaves PC and the status alone. -/
theorem exec_illegal (op : Byte) (s : State) :
    exec (.illegal op) s =
      .next { s with pc := s.pc + 1, events := s.events ++ [.illegalOpcode op s.pc] } := by
  have hexec : exec (.illegal op) s = .next ((s.advance 1).reportIllegal op s.pc) := rfl
  rw [hexec, State.reportIllegal_eq]
  rfl

end Sys2Proof.Machine

namespace Sys2Proof

open Machine

/-- Settles O55: the diagnostic appends one event and leaves the memory list as it is. -/
theorem illegalOpcodeReportsAndGoesOn : Obligations.IllegalOpcodeReportsAndGoesOn := fun s op =>
  completes_of_mem_eq (exec_illegal op s) rfl

end Sys2Proof
end

section
/-! PROOF. Family `30_encoding.md`: decode and encode are inverse under every admissible `OPMAP`, in both directions and
with the bytes after the instruction left over (R60 to R69). -/

namespace Sys2Proof

open Machine Config

/-! ## What the operands of each format are -/

theorem takeOperands_opB8 {k : Byte → Instr} {b : Byte} {i : Instr} (h : k b = i) (rest : List Byte) :
    takeOperands (.opB8 k) (b :: rest) = some (i, rest) := by
  rw [takeOperands, h]

theorem takeOperands_opW16 (k : Word → Instr) (w : Word) (rest : List Byte) :
    takeOperands (.opW16 k) (wordBytes w ++ rest) = some (k w, rest) := by
  simp [takeOperands, takeWord_wordBytes]

theorem takeOperands_opW16B8 (k : Word → Byte → Instr) (w : Word) (b : Byte) (rest : List Byte) :
    takeOperands (.opW16B8 k) (wordBytes w ++ [b] ++ rest) = some (k w b, rest) := by
  simp [takeOperands, takeWord_wordBytes]

theorem takeOperands_opSwr (k : Word → Word → Word → Instr) (low high dflt : Word) (rest : List Byte) :
    takeOperands (.opSwr k) (wordBytes low ++ wordBytes high ++ wordBytes dflt ++ rest) =
      some (k low high dflt, rest) := by
  simp [takeOperands, takeWord_wordBytes]

/-- The count byte holds the number of pairs, since there are at most 255 of them (R239). -/
theorem takeOperands_opSwl (k : List (Word × Word) → Word → Instr) {ps : List (Word × Word)} (dflt : Word)
    (hlen : ps.length ≤ 255) (rest : List Byte) :
    takeOperands (.opSwl k) (BitVec.ofNat 8 ps.length :: pairBytes ps ++ wordBytes dflt ++ rest) =
      some (k ps dflt, rest) := by
  have hcount : (BitVec.ofNat 8 ps.length).toNat = ps.length := by
    rw [BitVec.toNat_ofNat]; omega
  simp [takeOperands, hcount, takePairs_pairBytes, takeWord_wordBytes]

/-! ## An encoding decodes to its instruction -/

/-- A list decodes when its operands are those of the format that its first byte selects. -/
theorem decode_of_takeOperands {m : OpMap} {op : Byte} {bs : List Byte} {r : Instr × List Byte}
    (h : takeOperands (select m op) bs = some r) : decode m (op :: bs) = .ok r := by
  simp only [decode, h]

/-- The code of a tier-2 instruction and operands of that instruction's format. -/
theorem decode_codeOf {m : OpMap} (hm : opmapWf m) {k : OpKind} (hnop : k ≠ .reservedNop) (hill : k ≠ .illegal)
    {bs : List Byte} {r : Instr × List Byte} (h : takeOperands (shapeOf (codeOf m k) k) bs = some r) :
    decode m (codeOf m k :: bs) = .ok r :=
  decode_of_takeOperands (by rw [select_codeOf hm hnop hill]; exact h)

/-- A tier-1 byte is its block and its inline operand (R64), and there is nothing after it. -/
theorem decode_tier1 (m : OpMap) {block : Nibble} (n : Nibble) (rest : List Byte) (hblock : block.msb = false) :
    decode m ((block ++ n) :: rest) = .ok (tier1 n block.toNat, rest) := by
  have hmsb : (block ++ n).msb = false := (BitVec.msb_append ..).trans hblock
  have hselect : select m (block ++ n) = .op (tier1 n block.toNat) := by
    simp [select, hmsb, lowNibble_append, highNibble_append]
  exact decode_of_takeOperands (by rw [hselect]; rfl)

/-- A byte that `OPMAP` maps to a reserved no-op or to nothing is an instruction by itself (R63, R70). -/
theorem decode_of_kindAt {m : OpMap} {op : Byte} {k : OpKind} (hop : op.msb = true) (hk : kindAt m op = k)
    {bs : List Byte} {r : Instr × List Byte} (h : takeOperands (shapeOf op k) bs = some r) :
    decode m (op :: bs) = .ok r :=
  decode_of_takeOperands (by rw [select, if_pos hop, hk]; exact h)

theorem decode_encode {m : OpMap} {i : Instr} (hm : opmapWf m) (hi : i.wellFormed m = true) (rest : List Byte) :
    decode m (encode m i ++ rest) = .ok (i, rest) := by
  cases i with
  | ldaFast n | ldbFast n | pushFast n | staFast n | ldaI4 n | ldbI4 n | pushI4 n | addI4 n =>
    exact decode_tier1 m n rest rfl
  | nop op | illegal op =>
    simp only [Instr.wellFormed, Bool.and_eq_true, beq_iff_eq] at hi
    exact decode_of_kindAt hi.1 hi.2 rfl
  | sloadbf start wm1 | uloadbf start wm1 | storebf start wm1 =>
    exact decode_codeOf hm (by decide) (by decide)
      (takeOperands_opB8 (by rw [highNibble_append, lowNibble_append]) rest)
  | dcount mode step index =>
    exact decode_codeOf hm (by decide) (by decide)
      (takeOperands_opB8 (by rw [dcModeOf_bits, dcStepOf_bits, lowNibble_bits]) rest)
  | ldaFar w | ldaAbs w | ldbFar w | ldbAbs w | staFar w | staAbs w | ldabFar w | ldabAbs w | stabFar w | stabAbs w
  | ldaI16 w | ldbI16 w | call w | bcopy w | bfill w | bcmp w | jmpAbs w | jzAbs w | jnzAbs w =>
    exact decode_codeOf hm (by decide) (by decide) (takeOperands_opW16 _ w rest)
  | callalloc w b => exact decode_codeOf hm (by decide) (by decide) (takeOperands_opW16B8 _ w b rest)
  | switchrange low high dflt =>
    exact decode_codeOf hm (by decide) (by decide) (takeOperands_opSwr _ low high dflt rest)
  | switchlist ps dflt =>
    exact decode_codeOf hm (by decide) (by decide) (takeOperands_opSwl _ dflt (of_decide_eq_true hi) rest)
  | _ => exact decode_codeOf hm (by decide) (by decide) rfl

/-! ## What decodes is the encoding of its instruction -/

/-- Every instruction that a format makes is well formed, and its bytes are the opcode byte `op` and then its operands
as R65 lays them out. -/
def Shape.Encodes (m : OpMap) (op : Byte) : Shape → Prop
  | .op i => i.wellFormed m = true ∧ encode m i = [op]
  | .opB8 k => ∀ b, (k b).wellFormed m = true ∧ encode m (k b) = [op, b]
  | .opW16 k => ∀ w, (k w).wellFormed m = true ∧ encode m (k w) = op :: wordBytes w
  | .opW16B8 k => ∀ w b, (k w b).wellFormed m = true ∧ encode m (k w b) = op :: (wordBytes w ++ [b])
  | .opSwr k => ∀ low high dflt, (k low high dflt).wellFormed m = true ∧
      encode m (k low high dflt) = op :: (wordBytes low ++ wordBytes high ++ wordBytes dflt)
  | .opSwl k => ∀ ps dflt, ps.length ≤ 255 → (k ps dflt).wellFormed m = true ∧
      encode m (k ps dflt) = op :: (BitVec.ofNat 8 ps.length :: pairBytes ps ++ wordBytes dflt)

/-- Operands taken by such a format are the encoding's, and what is left over stood after it. -/
theorem Shape.Encodes.of_takeOperands {m : OpMap} {op : Byte} {sh : Shape} (hsh : sh.Encodes m op)
    {bs rest : List Byte} {i : Instr} (h : takeOperands sh bs = some (i, rest)) :
    i.wellFormed m = true ∧ op :: bs = encode m i ++ rest := by
  cases sh with
  | op j =>
    obtain ⟨rfl, rfl⟩ : j = i ∧ bs = rest := by simpa [takeOperands] using h
    exact ⟨hsh.1, by simp [hsh.2]⟩
  | opB8 k =>
    cases bs with
    | nil => simp [takeOperands] at h
    | cons b bs =>
      obtain ⟨rfl, rfl⟩ : k b = i ∧ bs = rest := by simpa [takeOperands] using h
      exact ⟨(hsh b).1, by simp [(hsh b).2]⟩
  | opW16 k =>
    obtain ⟨w, hw, rfl⟩ : ∃ w, takeWord bs = some (w, rest) ∧ k w = i := by
      simpa [takeOperands, Option.bind_eq_some_iff] using h
    exact ⟨(hsh w).1, by simp [(hsh w).2, takeWord_eq_some hw]⟩
  | opW16B8 k =>
    obtain ⟨w, bs', hw, h⟩ :
        ∃ w bs', takeWord bs = some (w, bs') ∧ takeOperands (.opB8 (k w)) bs' = some (i, rest) := by
      simp only [takeOperands, Option.bind_eq_bind, Option.bind_eq_some_iff] at h
      obtain ⟨⟨w, bs'⟩, hw, h⟩ := h
      refine ⟨w, bs', hw, ?_⟩
      cases bs' <;> exact h
    cases bs' with
    | nil => simp [takeOperands] at h
    | cons b bs' =>
      obtain ⟨rfl, rfl⟩ : k w b = i ∧ bs' = rest := by simpa [takeOperands] using h
      exact ⟨(hsh w b).1, by simp [(hsh w b).2, takeWord_eq_some hw]⟩
  | opSwr k =>
    obtain ⟨low, bs1, hlow, high, bs2, hhigh, dflt, hdflt, rfl⟩ :
        ∃ low bs1, takeWord bs = some (low, bs1) ∧ ∃ high bs2, takeWord bs1 = some (high, bs2) ∧
          ∃ dflt, takeWord bs2 = some (dflt, rest) ∧ k low high dflt = i := by
      simpa [takeOperands, Option.bind_eq_some_iff] using h
    refine ⟨(hsh low high dflt).1, ?_⟩
    simp [(hsh low high dflt).2, takeWord_eq_some hlow, takeWord_eq_some hhigh, takeWord_eq_some hdflt]
  | opSwl k =>
    cases bs with
    | nil => simp [takeOperands] at h
    | cons n bs =>
      obtain ⟨ps, bs1, hps, dflt, hdflt, rfl⟩ :
          ∃ ps bs1, takePairs n.toNat bs = some (ps, bs1) ∧
            ∃ dflt, takeWord bs1 = some (dflt, rest) ∧ k ps dflt = i := by
        simpa [takeOperands, Option.bind_eq_some_iff] using h
      obtain ⟨hlen, hbs⟩ := takePairs_eq_some hps
      have hn : BitVec.ofNat 8 ps.length = n := by rw [hlen, BitVec.ofNat_toNat, BitVec.setWidth_eq]
      obtain ⟨hwf, henc⟩ := hsh ps dflt (by have := n.isLt; omega)
      exact ⟨hwf, by simp [henc, hn, hbs, takeWord_eq_some hdflt]⟩

/-- The byte that an admissible binding maps to a tier-2 instruction is that instruction's code. -/
theorem codeOf_of_kindAt {m : OpMap} (hm : opmapWf m) {op : Byte} (hop : op.msb = true) {k : OpKind}
    (hk : kindAt m op = k) (hnop : k ≠ .reservedNop) (hill : k ≠ .illegal) : codeOf m k = op :=
  codeOf_kindAt hm.1 hop hk (hm.2.1 k hnop hill)

/-- The format of a tier-2 byte encodes its instructions with that byte. -/
theorem shapeOf_encodes {m : OpMap} (hm : opmapWf m) {op : Byte} (hop : op.msb = true) {k : OpKind}
    (hk : kindAt m op = k) : (shapeOf op k).Encodes m op := by
  have hcode := codeOf_of_kindAt hm hop hk
  cases k with
  | reservedNop | illegal => exact ⟨by simp [Instr.wellFormed, hop, hk], rfl⟩
  | sloadbf | uloadbf | storebf =>
    intro b
    exact ⟨rfl, by simp [encode, opcode, operandBytes, hcode, highNibble_append_lowNibble]⟩
  | dcount =>
    intro b
    exact ⟨rfl, by simp [encode, opcode, operandBytes, hcode, dcount_bits]⟩
  | callalloc => exact fun w b => ⟨rfl, congrArg (· :: (wordBytes w ++ [b])) (hcode (by decide) (by decide))⟩
  | switchrange =>
    exact fun low high dflt =>
      ⟨rfl, congrArg (· :: (wordBytes low ++ wordBytes high ++ wordBytes dflt)) (hcode (by decide) (by decide))⟩
  | switchlist =>
    exact fun ps dflt hlen => ⟨decide_eq_true hlen,
      congrArg (· :: (BitVec.ofNat 8 ps.length :: pairBytes ps ++ wordBytes dflt)) (hcode (by decide) (by decide))⟩
  | ldaFar | ldaAbs | ldbFar | ldbAbs | staFar | staAbs | ldabFar | ldabAbs | stabFar | stabAbs | ldaI16 | ldbI16
  | call | bcopy | bfill | bcmp | jmpAbs | jzAbs | jnzAbs =>
    exact fun w => ⟨rfl, congrArg (· :: wordBytes w) (hcode (by decide) (by decide))⟩
  | ldaNear | ldbNear | staNear | ldabNear | stabNear | ldaS8 | ldaU8 | ldbS8 | ldbU8 | allocz | portIn | portOut
  | jmpRel8 | jzRel8 | jnzRel8 =>
    exact fun b => ⟨rfl, congrArg (· :: [b]) (hcode (by decide) (by decide))⟩
  | _ => exact ⟨rfl, congrArg (· :: []) (hcode (by decide) (by decide))⟩

/-- A tier-1 instruction is one byte, its block and its inline operand (R64). -/
theorem encode_tier1 (m : OpMap) (n block : Nibble) (hblock : block.msb = false) :
    (tier1 n block.toNat).wellFormed m = true ∧ encode m (tier1 n block.toNat) = [block ++ n] := by
  have hcases : ∀ b : Nibble, b.msb = false →
      b = 0 ∨ b = 1 ∨ b = 2 ∨ b = 3 ∨ b = 4 ∨ b = 5 ∨ b = 6 ∨ b = 7 := by decide
  obtain rfl | rfl | rfl | rfl | rfl | rfl | rfl | rfl := hcases block hblock <;> exact ⟨rfl, rfl⟩

theorem select_encodes {m : OpMap} (hm : opmapWf m) (op : Byte) : (select m op).Encodes m op := by
  rw [select]
  split
  · exact shapeOf_encodes hm ‹_› rfl
  · have hblock : (highNibble op).msb = false := by
      revert op; decide
    have h := encode_tier1 m (lowNibble op) (highNibble op) hblock
    rw [highNibble_append_lowNibble] at h
    exact h

/-- What decodes is well formed and stands at the head of the list, whole. -/
theorem encode_of_decode {m : OpMap} (hm : opmapWf m) {bs rest : List Byte} {i : Instr}
    (h : decode m bs = .ok (i, rest)) : i.wellFormed m = true ∧ bs = encode m i ++ rest := by
  cases bs with
  | nil => simp [decode] at h
  | cons op bs =>
    simp only [decode] at h
    split at h
    · next r hr =>
      cases h
      exact (select_encodes hm op).of_takeOperands hr
    · cases h

/-! ## Every byte decodes -/

/-- The longest operands are those of SWITCHLIST with 255 pairs: 1 + 4 * 255 + 2 bytes (R65). -/
theorem takeOperands_of_length (sh : Shape) {bs : List Byte} (h : 1023 ≤ bs.length) :
    ∃ i rest, takeOperands sh bs = some (i, rest) := by
  obtain ⟨b, bs', rfl⟩ : ∃ b bs', bs = b :: bs' := List.exists_cons_of_length_pos (by omega)
  rw [List.length_cons] at h
  obtain ⟨w1, r1, h1, l1⟩ := takeWord_of_length (bs := b :: bs') (by rw [List.length_cons]; omega)
  rw [List.length_cons] at l1
  obtain ⟨w2, r2, h2, l2⟩ := takeWord_of_length (bs := r1) (by omega)
  obtain ⟨w3, r3, h3, -⟩ := takeWord_of_length (bs := r2) (by omega)
  cases sh with
  | op i => exact ⟨i, _, rfl⟩
  | opB8 k => exact ⟨_, _, rfl⟩
  | opW16 k => exact ⟨k w1, r1, by simp [takeOperands, h1]⟩
  | opW16B8 k =>
    obtain ⟨c, r1', rfl⟩ : ∃ c r1', r1 = c :: r1' := List.exists_cons_of_length_pos (by omega)
    exact ⟨k w1 c, r1', by simp [takeOperands, h1]⟩
  | opSwr k => exact ⟨k w1 w2 w3, r3, by simp [takeOperands, h1, h2, h3]⟩
  | opSwl k =>
    have hb := b.isLt
    obtain ⟨ps, r, hps, l⟩ := takePairs_of_length (n := b.toNat) (bs := bs') (by omega)
    obtain ⟨dflt, r', hdflt, -⟩ := takeWord_of_length (bs := r) (by omega)
    exact ⟨k ps dflt, r', by simp [takeOperands, hps, hdflt]⟩

/-- Under any table, a list as long as the longest instruction decodes. -/
theorem decode_of_length (m : OpMap) {bs : List Byte} (h : maxLength ≤ bs.length) :
    ∃ i rest, decode m bs = .ok (i, rest) := by
  cases bs with
  | nil => simp [maxLength] at h
  | cons op bs =>
    obtain ⟨i, rest, hr⟩ := takeOperands_of_length (select m op) (bs := bs) (by
      simp only [maxLength, List.length_cons] at h; omega)
    exact ⟨i, rest, decode_of_takeOperands hr⟩

/-! ## The obligations on decode and encode -/

/-- Settles O10, by the format of the instruction. -/
theorem decodeInvertsEncode : Obligations.DecodeInvertsEncode := fun _ _ rest hm hi => decode_encode hm hi rest

/-- Settles O11, by the format that the first byte selects. -/
theorem encodeInvertsDecode : Obligations.EncodeInvertsDecode := fun _ _ _ _ hm h => encode_of_decode hm h

/-- Settles O9: the list is long enough for any format, and what it decodes to is encoded by its own first byte. -/
theorem decoderIsTotal : Obligations.DecoderIsTotal := by
  intro m op bs hm hlen
  obtain ⟨i, rest, h⟩ := decode_of_length m (bs := op :: bs) hlen
  obtain ⟨hwf, hbs⟩ := encode_of_decode hm h
  have hop : op = opcode m i := (List.cons.inj hbs).1
  exact ⟨i, rest, h, hwf, by rw [hop]; rfl⟩

/-- Settles O12: the first two kinds have no operands, and below 0x80 the table is not read. -/
theorem opmapDecidesReservedAndIllegal : Obligations.OpmapDecidesReservedAndIllegal := by
  intro m op rest
  refine ⟨fun hop hk => decode_of_kindAt hop hk rfl, fun hop hk => decode_of_kindAt hop hk rfl, fun hop m' => ?_⟩
  have hselect : select m' op = select m op := by simp [select, hop]
  rw [decode, decode, hselect]

/-- Settles O13, by running the decoder on each word. -/
theorem writtenWordsDecode : Obligations.WrittenWordsDecode :=
  ⟨rfl, rfl, rfl, rfl, rfl, rfl, rfl, rfl, rfl, rfl⟩

/-- The illegal codes are the bytes that the illegal opcode has an encoding with. -/
theorem decode_illegal_iff_wellFormed {m : OpMap} (hm : opmapWf m) (op : Byte) (rest : List Byte) :
    decode m (op :: rest) = .ok (.illegal op, rest) ↔ (Instr.illegal op).wellFormed m = true :=
  ⟨fun h => (encode_of_decode hm h).1, fun h => decode_encode hm h rest⟩

/-- The illegal codes of the default map (R70; decision D22). -/
theorem wellFormed_illegal_default_iff : ∀ op : Byte,
    (op.toNat = 0xBE ∨ op.toNat = 0xBF ∨ (0xCA ≤ op.toNat ∧ op.toNat ≤ 0xCF) ∨ (0xDC ≤ op.toNat ∧ op.toNat ≤ 0xFE)) ↔
      (Instr.illegal op).wellFormed defaultOpmap = true := by
  decide

/-- Settles O14: the illegal codes are read off the default map, byte by byte. -/
theorem reservedAndIllegalCodes : Obligations.ReservedAndIllegalCodes :=
  ⟨fun _ => rfl, fun _ => rfl, fun _ _ => completes_of_mem_eq rfl rfl, fun op rest =>
    (wellFormed_illegal_default_iff op).trans (decode_illegal_iff_wellFormed defaultOpmap_wf op rest).symm⟩

end Sys2Proof
end

section
/-! PROOF. The whole instruction set: the kinds of effect that an instruction can have, with the fields that each one
writes, and from them what no other instruction changes (R22 to R25, R311, R314). -/

namespace Sys2Proof.Machine

/-! ## The kinds of effect -/

/-- What `exec i s` can answer. Each constructor names the fields that its kind of instruction writes, and carries the
classes of Safety.lean that `i` is then in; `hwf` says that the memory stays in its canonical form. -/
inductive Effect (i : Instr) (s : State) : Result → Prop
  /-- PC passes the instruction, and A may change. -/
  | registerA (a : Word) : Effect i s (.next ((s.advance i.length).setA a))
  /-- PC passes the instruction and B is written. -/
  | registerB (b : Word) (hb : i.mayWriteB = true) : Effect i s (.next ((s.advance i.length).setB b))
  /-- A store, which for DCOUNT can go with a load into A. -/
  | store (a : Word) (m : Memory) (hstore : i.mayStore = true) (hwf : s.mem.wf → m.wf) :
      Effect i s (.next (((s.advance i.length).setA a).setMem m))
  /-- SP moves and memory is written: pushes, popping stores and ALLOCZ. -/
  | stackStore (sp : Word) (m : Memory) (hsp : i.mayWriteSp = true) (hstore : i.mayStore = true)
      (hwf : s.mem.wf → m.wf) : Effect i s (.next (((s.advance i.length).setSp sp).setMem m))
  /-- SP moves and A may change. -/
  | stackA (sp a : Word) (hsp : i.mayWriteSp = true) : Effect i s (.next (((s.advance i.length).setSp sp).setA a))
  /-- SP moves and B is written. -/
  | stackB (sp b : Word) (hsp : i.mayWriteSp = true) (hb : i.mayWriteB = true) :
      Effect i s (.next (((s.advance i.length).setSp sp).setB b))
  /-- A jump or a switch: PC alone. -/
  | jump (pc : Word) (htransfer : i.isTransfer = true) : Effect i s (.next (s.setPc pc))
  /-- A call or the return. -/
  | frame (sp fp pc : Word) (m : Memory) (hcall : i.isCallOrReturn = true)
      (hclass : i.isTransfer = true ∧ i.mayWriteSp = true) (hstore : i.mayStore = true ∨ m = s.mem)
      (hwf : s.mem.wf → m.wf) : Effect i s (.next ((((s.setSp sp).setFp fp).setPc pc).setMem m))
  /-- PC passes the instruction and the host is told of something that is not the trace. -/
  | tell (e : Event) (he : ∀ a b pc sp fp, e ≠ .trace a b pc sp fp) :
      Effect i s (.next ((s.advance i.length).emit e))
  /-- An answer of the host goes to A and the host is told of the input. -/
  | input (a : Word) (l : List HostAnswer) (n : Nat) :
      Effect i s (.next (((((s.advance i.length).setInput l).setInputDraws n).setA a).emit (.input s.pc)))
  /-- A divide by zero under the policy `fault`. -/
  | divideByZero (hdiv : i.isDivide = true) (hb : s.b = 0) (hpolicy : s.params.div0 = .fault) :
      Effect i s (.next ((s.advance i.length).raiseDivideByZero s.pc (s.readByte s.pc)))
  /-- A host that never answers. -/
  | silent (rest : List HostAnswer) (hinput : s.input = .silent :: rest) : Effect i s (.fault .hostSilent)

/-- The four divides share one meaning (R184 to R187, R196). -/
theorem effect_divide {i : Instr} (f : Word → Word → Word) (g : Word → Word) (s : State) (hdiv : i.isDivide = true)
    (hlen : i.length = 1) : Effect i s (divide f g s) := by
  obtain ⟨-, h⟩ | ⟨-, -, h⟩ | ⟨hb, hpolicy, h⟩ := divide_cases f g s <;> rw [h]
  · have e := Effect.registerA (i := i) (s := s) (f s.a s.b)
    rwa [hlen] at e
  · have e := Effect.registerA (i := i) (s := s) (g s.a)
    rwa [hlen] at e
  · have e := Effect.divideByZero (i := i) hdiv hb hpolicy
    rwa [hlen] at e

/-- A jump writes PC alone, taken or not. -/
theorem effect_jumpIf {i : Instr} (taken : Bool) (len : Nat) (target : Word) (s : State)
    (htransfer : i.isTransfer = true) : Effect i s (jumpIf taken len target s) := by
  rw [jumpIf_eq]
  exact .jump _ htransfer

theorem effect_switchrange (low high dflt : Word) (s : State) :
    Effect (.switchrange low high dflt) s (execSwitchrange low high dflt s) := by
  unfold execSwitchrange
  split
  · exact .jump _ rfl
  · split
    · exact .jump dflt rfl
    · exact .jump _ rfl

theorem effect_portOut (port : Byte) (s : State) : Effect (.portOut port) s (execPortOut port s) := by
  unfold execPortOut
  split
  · exact .tell _ nofun
  · exact .registerA s.a

theorem effect_portIn (port : Byte) (s : State) : Effect (.portIn port) s (execPortIn port s) := by
  unfold execPortIn
  split
  · split
    · next v t hdraw =>
      obtain ⟨-, rfl, rfl⟩ | ⟨b, rest, -, rfl, rfl⟩ := State.drawInput_cases hdraw
      · exact .input _ s.input (s.inputDraws + 1)
      · exact .input _ rest s.inputDraws
    · next hdraw =>
      obtain ⟨rest, hinput⟩ := State.drawInput_eq_none.mp hdraw
      exact .silent rest hinput
  · exact .registerA s.a

theorem effect_dcount (mode : DcMode) (step : DcStep) (index : Nibble) (s : State) :
    Effect (.dcount mode step index) s (execDcount mode step index s) := by
  cases mode with
  | ldpost => exact .store _ _ rfl fun h => Memory.wf_writeWord h _ _
  | ldpre => exact .store _ _ rfl fun h => Memory.wf_writeWord h _ _
  | stpost =>
    simp only [execDcount, State.store]
    split
    · exact .store s.a _ rfl fun h => Memory.wf_writeWord (Memory.wf_write h _ _) _ _
    · exact .store s.a _ rfl fun h => Memory.wf_writeWord (Memory.wf_writeWord h _ _) _ _
  | stpre =>
    simp only [execDcount, State.store]
    split
    · exact .store s.a _ rfl fun h => Memory.wf_write (Memory.wf_writeWord h _ _) _ _
    · exact .store s.a _ rfl fun h => Memory.wf_writeWord (Memory.wf_writeWord h _ _) _ _

/-- A call from an instruction of `len` bytes, and any SP after it (R160 to R162). -/
theorem effect_call {i : Instr} (len : Nat) (target sp : Word) (s : State) (hcall : i.isCallOrReturn = true)
    (hclass : i.isTransfer = true ∧ i.mayWriteSp = true) (hstore : i.mayStore = true) :
    Effect i s (.next (((s.advance len).call target).setSp sp)) := by
  have hfields : ((s.advance len).call target).setSp sp =
      (((s.setSp sp).setFp (s.sp - 3)).setPc target).setMem ((s.advance len).call target).mem := by
    apply State.ext_fields <;> simp
  rw [hfields]
  exact .frame _ _ _ _ hcall hclass (.inl hstore) fun h => State.call_wf (s := s.advance len) h _

/-- Everything an instruction can do. -/
theorem exec_effect (i : Instr) (s : State) : Effect i s (exec i s) := by
  cases i with
  | ldbFast | ldbI4 | ldbNear | ldbFar | ldbAbs | ldbS8 | ldbU8 | ldbI16 | sxb | zxb | storebf =>
    exact .registerB _ rfl
  | staFast | staNear | staFar | staAbs => exact .store s.a _ rfl fun h => Memory.wf_writeWord h _ _
  | stabNear | stabFar | stabAbs => exact .store s.a _ rfl fun h => Memory.wf_write h _ _
  | bcopy => exact .store s.a _ rfl fun h => Memory.wf_copy h _ _ _
  | bfill => exact .store s.a _ rfl fun h => Memory.wf_fill h _ _ _
  | dcount mode step index => exact effect_dcount mode step index s
  | pushFast | pushI4 | pusha | pushb | popstore => exact .stackStore _ _ rfl rfl fun h => Memory.wf_writeWord h _ _
  | popstoreb => exact .stackStore _ _ rfl rfl fun h => Memory.wf_write h _ _
  | allocz => exact .stackStore _ _ rfl rfl fun h => Memory.wf_zeroDown h _ _
  | popa => exact .stackA _ _ rfl
  | setsp => exact .stackA s.a s.a rfl
  | popb => exact .stackB _ _ rfl rfl
  | jmpAbs | jzAbs | jnzAbs | jmpRel8 | jzRel8 | jnzRel8 => exact effect_jumpIf _ _ _ s rfl
  | switchrange low high dflt => exact effect_switchrange low high dflt s
  | switchlist => exact .jump _ rfl
  | call a16 => exact effect_call 3 a16 ((s.advance 3).call a16).sp s rfl ⟨rfl, rfl⟩ rfl
  | callalloc a16 => exact effect_call 4 a16 _ s rfl ⟨rfl, rfl⟩ rfl
  | calla => exact effect_call 1 s.a ((s.advance 1).call s.a).sp s rfl ⟨rfl, rfl⟩ rfl
  | ret =>
    rw [exec_ret]
    exact .frame (s.fp + 3) (s.readWord s.fp) (s.readWord (s.fp + 2)) s.mem rfl ⟨rfl, rfl⟩ (.inr rfl) id
  | illegal => exact .tell _ nofun
  | portIn port => exact effect_portIn port s
  | portOut port => exact effect_portOut port s
  | divu | divs | modu | mods => exact effect_divide _ _ s rfl rfl
  | nop => exact .registerA s.a
  | _ => exact .registerA _

theorem effect_of_exec {i : Instr} {s t : State} (h : exec i s = .next t) : Effect i s (.next t) := h ▸ exec_effect i s

/-! ## What each effect leaves -/

section
variable {i : Instr} {s t : State}

theorem Effect.fp_eq (h : Effect i s (.next t)) (hi : i.isCallOrReturn = false) : t.fp = s.fp := by
  cases h with
  | frame _ _ _ _ hcall => simp [hi] at hcall
  | _ => rfl

theorem Effect.sp_eq (h : Effect i s (.next t)) (hi : i.mayWriteSp = false) : t.sp = s.sp := by
  cases h with
  | stackStore _ _ hsp | stackA _ _ hsp | stackB _ _ hsp => simp [hi] at hsp
  | frame _ _ _ _ _ hclass => simp [hi] at hclass
  | _ => rfl

theorem Effect.b_eq (h : Effect i s (.next t)) (hi : i.mayWriteB = false) : t.b = s.b := by
  cases h with
  | registerB _ hb | stackB _ _ _ hb => simp [hi] at hb
  | _ => rfl

theorem Effect.mem_eq (h : Effect i s (.next t)) (hi : i.mayStore = false) : t.mem = s.mem := by
  cases h with
  | store _ _ hstore | stackStore _ _ _ hstore => simp [hi] at hstore
  | frame _ _ _ _ _ _ hstore => simpa [hi] using hstore
  | _ => rfl

theorem Effect.params_eq (h : Effect i s (.next t)) : t.params = s.params := by
  cases h <;> rfl

theorem Effect.pc_eq (h : Effect i s (.next t)) (hi : i.isTransfer = false) :
    t.pc = s.pc + BitVec.ofNat 16 i.length := by
  cases h with
  | jump _ htransfer => simp [hi] at htransfer
  | frame _ _ _ _ _ hclass => simp [hi] at hclass
  | _ => rfl

theorem Effect.mem_wf (h : Effect i s (.next t)) (hs : s.mem.wf) : t.mem.wf := by
  cases h with
  | store _ _ _ hwf | stackStore _ _ _ _ hwf | frame _ _ _ _ _ _ _ hwf => exact hwf hs
  | _ => exact hs

/-- The status stays, or the answer is the record of a divide by zero (R313). -/
theorem Effect.status_cases (h : Effect i s (.next t)) :
    t.status = s.status ∨ (i.isDivide = true ∧ s.b = 0 ∧ s.params.div0 = .fault ∧
      t = (s.advance i.length).raiseDivideByZero s.pc (s.readByte s.pc)) := by
  cases h with
  | divideByZero hdiv hb hpolicy => exact .inr ⟨hdiv, hb, hpolicy, rfl⟩
  | _ => exact .inl rfl

/-- At most one event, and no trace: that one is the step's (R311, R314). -/
theorem Effect.events_cases (h : Effect i s (.next t)) :
    t.events = s.events ∨
      ∃ e, t.events = s.events ++ [e] ∧ ∀ a b pc sp fp, e ≠ .trace a b pc sp fp := by
  cases h with
  | tell e he => exact .inr ⟨e, rfl, he⟩
  | input => exact .inr ⟨_, rfl, nofun⟩
  | divideByZero => exact .inr ⟨_, rfl, nofun⟩
  | _ => exact .inl rfl

end

/-- An instruction has a next state unless the host stays silent. -/
theorem exec_next_of_hostAnswers (i : Instr) {s : State} (hs : s.hostAnswers) : ∃ t, exec i s = .next t := by
  have h := exec_effect i s
  generalize exec i s = r at h
  cases h with
  | silent rest hinput => simp [State.hostAnswers, hinput] at hs
  | _ => exact ⟨_, rfl⟩

end Sys2Proof.Machine

namespace Sys2Proof

open Machine

/-- The family of Laws/PerInstr.lean, for all instructions at once. -/
theorem encode_length (m : Config.OpMap) (i : Instr) : (encode m i).length = i.length := by
  cases i with
  | switchlist pairs dflt => exact Laws.EncodeLength.switchlist pairs dflt m
  | _ => rfl

/-- Settles O56: among the effects only the frame's writes FP. -/
theorem fpWrittenOnlyByCallsAndReturn : Obligations.FpWrittenOnlyByCallsAndReturn := fun _ _ _ h hi =>
  (effect_of_exec h).fp_eq hi

/-- Settles O57, register by register. -/
theorem registersAndMemoryWrittenOnlyByTheirWriters : Obligations.RegistersAndMemoryWrittenOnlyByTheirWriters := by
  intro i s t h
  have heffect := effect_of_exec h
  exact ⟨heffect.sp_eq, heffect.b_eq, fun hi x => congrArg (·.read x) (heffect.mem_eq hi), heffect.params_eq⟩

/-- Settles O58: every effect but those of a transfer passes the length that the encoding has. -/
theorem nonTransferAdvancesPcByLength : Obligations.NonTransferAdvancesPcByLength := by
  intro i s t hi h m
  rw [encode_length, (effect_of_exec h).pc_eq hi]

/-- Settles O59: the only effect with another status is the divide by zero. -/
theorem statusChangesOnlyAtDivideByZero : Obligations.StatusChangesOnlyAtDivideByZero := by
  intro i s t h hne
  obtain heq | ⟨hdiv, hb, hpolicy, -⟩ := (effect_of_exec h).status_cases
  · exact absurd heq hne
  · exact ⟨hdiv, hb, hpolicy⟩

end Sys2Proof
end

section
/-! PROOF. The step: what it runs (R61, R63), that it always runs something (R69), what it tells the host (R322), and
the invariant that it keeps. -/

namespace Sys2Proof.Machine

/-! ## What a step runs -/

theorem step_of_faulted {s : State} {f : EngineFault} (h : s.status = .faulted f) :
    step s = .fault (.engineFaulted f) := by
  simp only [step, h]

theorem step_of_decode {s : State} {i : Instr} {rest : List Byte} (hs : s.status = .running)
    (h : decode s.params.opmap s.fetchWindow = .ok (i, rest)) : step s = exec i s.trace := by
  simp only [step, hs, State.fetch, h]

/-- The window is as long as the longest instruction, so under any table some instruction stands at its head. -/
theorem fetchWindow_decodes (s : State) : ∃ i rest, decode s.params.opmap s.fetchWindow = .ok (i, rest) :=
  decode_of_length _ (State.bytesFrom_length s s.pc maxLength).ge

/-- Everything a step that has a next state can do: the engine was Running, and the instruction at PC completed. -/
theorem exec_of_step {s t : State} (h : step s = .next t) :
    s.status = .running ∧ ∃ i rest, decode s.params.opmap s.fetchWindow = .ok (i, rest) ∧ exec i s.trace = .next t := by
  have hs : s.status = .running := by
    cases hstatus : s.status with
    | running => rfl
    | faulted f => rw [step_of_faulted hstatus] at h; cases h
  obtain ⟨i, rest, hdecode⟩ := fetchWindow_decodes s
  exact ⟨hs, i, rest, hdecode, step_of_decode hs hdecode ▸ h⟩

/-! ## Bytes at PC in the window -/

/-- The window begins with any shorter run of the bytes at PC. -/
theorem fetchWindow_eq_append (s : State) {n : Nat} (hn : n ≤ maxLength) :
    s.fetchWindow = s.bytesFrom s.pc n ++ s.bytesFrom (s.pc + BitVec.ofNat 16 n) (maxLength - n) := by
  rw [State.fetchWindow, ← State.bytesFrom_add, Nat.add_sub_cancel' hn]

/-- The byte at PC is the opcode byte of the instruction that decodes there. -/
theorem readByte_pc_of_decode {s : State} (hm : opmapWf s.params.opmap) {i : Instr} {rest : List Byte}
    (h : decode s.params.opmap s.fetchWindow = .ok (i, rest)) : s.readByte s.pc = opcode s.params.opmap i := by
  have hwindow := (encode_of_decode hm h).2
  rw [fetchWindow_eq_append s (n := 1) (by decide)] at hwindow
  exact (List.cons.inj hwindow).1

/-- No instruction is longer than SWITCHLIST with 255 pairs (R65). -/
theorem length_le_maxLength {m : Config.OpMap} {i : Instr} (hi : i.wellFormed m = true) : i.length ≤ maxLength := by
  cases i with
  | switchlist pairs dflt =>
    have hpairs : pairs.length ≤ 255 := of_decide_eq_true hi
    simp only [Instr.length, maxLength]
    omega
  | _ => exact of_decide_eq_true rfl

/-- A divide's opcode byte is one that the binding maps to a divide (R184 to R187). -/
theorem opcode_of_isDivide {m : Config.OpMap} (hm : opmapWf m) {i : Instr} (hi : i.isDivide = true) :
    (opcode m i).msb = true ∧ isDivideKind (kindAt m (opcode m i)) = true := by
  have hcode : ∀ k, isDivideKind k = true → (codeOf m k).msb = true ∧ isDivideKind (kindAt m (codeOf m k)) = true := by
    intro k hk
    have hmem : k ∈ m := mem_of_opmapWf hm (by rintro rfl; cases hk) (by rintro rfl; cases hk)
    obtain ⟨hmsb, hkind⟩ := kindAt_codeOf hm.1 hmem
    exact ⟨hmsb, hkind.symm ▸ hk⟩
  cases i with
  | divu | divs | modu | mods => exact hcode _ rfl
  | _ => cases hi

/-! ## The invariant -/

/-- The record of a divide by zero is true when it is made (R313). -/
theorem inv_raiseDivideByZero {s : State} (hmem : s.mem.wf) (hm : opmapWf s.params.opmap)
    (hop : (s.readByte s.pc).msb = true ∧ isDivideKind (kindAt s.params.opmap (s.readByte s.pc)) = true) :
    ((s.advance 1).raiseDivideByZero s.pc (s.readByte s.pc)).Inv where
  memory := hmem
  opmap := hm
  record := by
    intro opaddr op h
    rw [State.raiseDivideByZero_eq] at h ⊢
    cases h
    exact ⟨hop, rfl, rfl, List.getLast?_concat⟩

theorem inv_of_running {s : State} (hmem : s.mem.wf) (hm : opmapWf s.params.opmap) (hs : s.status = .running) :
    s.Inv where
  memory := hmem
  opmap := hm
  record := by
    intro opaddr op h
    rw [hs] at h
    cases h

theorem step_keeps_inv {s t : State} (hs : s.Inv) (h : step s = .next t) : t.Inv := by
  obtain ⟨hrunning, i, rest, hdecode, hexec⟩ := exec_of_step h
  have heffect := effect_of_exec hexec
  obtain hstatus | ⟨hdiv, -, -, rfl⟩ := heffect.status_cases
  · refine inv_of_running (heffect.mem_wf hs.memory) ?_ (hstatus.trans hrunning)
    rw [heffect.params_eq]
    exact hs.opmap
  · have hlen : i.length = 1 := by
      cases i with
      | divu | divs | modu | mods => rfl
      | _ => cases hdiv
    have hop := opcode_of_isDivide hs.opmap hdiv
    rw [← readByte_pc_of_decode hs.opmap hdecode] at hop
    rw [hlen]
    exact inv_raiseDivideByZero (s := s.trace) hs.memory hs.opmap hop

end Sys2Proof.Machine

namespace Sys2Proof

open Machine

/-- Settles O7: the effects keep memory and bindings, and a divide by zero records the byte that decoded as a divide. -/
theorem stepKeepsInvariant : Obligations.StepKeepsInvariant := fun _ _ => step_keeps_inv

/-- Settles O3: memory by evaluation, and a Running engine has no record. -/
theorem resetMeetsInvariant : Obligations.ResetMeetsInvariant := inv_of_running (by decide) defaultOpmap_wf rfl

/-- Settles O4, status by status. -/
theorem stepRunsDecodedInstruction : Obligations.StepRunsDecodedInstruction :=
  ⟨fun _ _ => step_of_faulted, fun _ _ _ => step_of_decode⟩

/-- Settles O5: the window is the encoding and something after it, which decodes to the instruction. -/
theorem stepRunsInstructionAtPc : Obligations.StepRunsInstructionAtPc := by
  intro s i hm hi hs hbytes
  have hlen : (encode s.params.opmap i).length ≤ maxLength := by
    rw [encode_length]
    exact length_le_maxLength hi
  have hwindow := fetchWindow_eq_append s hlen
  rw [hbytes] at hwindow
  exact step_of_decode hs (hwindow ▸ decode_encode hm hi _)

/-- Settles O6: some instruction decodes, and the host's silence is the only thing that stops one. -/
theorem runningEngineAlwaysSteps : Obligations.RunningEngineAlwaysSteps := by
  intro s hs hhost
  obtain ⟨i, rest, hdecode⟩ := fetchWindow_decodes s
  rw [step_of_decode hs hdecode]
  exact exec_next_of_hostAnswers i hhost

/-- Settles O8: the trace is told before the instruction runs, which then tells at most one event. -/
theorem stepTellsTraceThenAtMostOneEvent : Obligations.StepTellsTraceThenAtMostOneEvent := by
  intro s t h
  obtain ⟨-, i, rest, -, hexec⟩ := exec_of_step h
  obtain hevents | ⟨e, hevents, he⟩ := (effect_of_exec hexec).events_cases
  · exact .inl hevents
  · exact .inr ⟨e, by rw [hevents, State.trace_events, List.append_assoc]; rfl, he⟩

/-- Settles O15: the window begins at PC, which is where the byte was stored. -/
theorem storeIsSeenByNextFetch : Obligations.StoreIsSeenByNextFetch := by
  intro s t a16 ha h
  cases h
  have hread : ((s.advance 3).writeByte a16 (lowByte s.a)).readByte a16 = lowByte s.a :=
    Memory.read_write_self _ _ _
  rw [fetchWindow_eq_append _ (n := 1) (by decide)]
  rw [ha] at hread ⊢
  exact congrArg some hread

end Sys2Proof
end

section
/-! PROOF. The host's reset (R32, R340 to R343): the memory it fills, and `State.reset` as the case without an image. -/

namespace Sys2Proof.Machine

/-- Without an image and over zeros, only the self-loop's two bytes are listed (R340). -/
theorem resetMemory_zero : resetMemory (fun _ => 0x00) [] = [(0x0000, 0xD9), (0x0001, 0x01)] := by
  refine Memory.eq_of_read_eq (resetMemory_wf _ _) (by decide) fun x => ?_
  rw [resetMemory_read]
  simp only [resetCell, Memory.read, Memory.lookup, List.getElem?_nil, unlistedByte, eq_comm (a := x.toNat)]

end Sys2Proof.Machine

namespace Sys2Proof

open Machine

/-- Settles O1: the image cell by cell, and past it the self-loop and INIT_MEM. -/
theorem hostResetEstablishesState : Obligations.HostResetEstablishesState := by
  intro s initMem image t
  have hread : ∀ x, t.readByte x = resetCell initMem image x.toNat := s.hostReset_readByte initMem image
  have hwf : t.mem.wf := by
    rw [s.hostReset_mem initMem image]
    exact resetMemory_wf initMem image
  refine ⟨rfl, rfl, rfl, rfl, rfl, rfl, fun x hx => ?_, fun x hx => ?_, hwf, rfl, rfl, rfl, rfl⟩
  · rw [hread, resetCell, List.getElem?_eq_getElem hx]
  · have hzero : x.toNat = 0 ↔ x = 0 := by bv_omega
    have hone : x.toNat = 1 ↔ x = 1 := by bv_omega
    rw [hread, resetCell, List.getElem?_eq_none hx]
    simp only [hzero, hone, BitVec.ofNat_toNat, BitVec.setWidth_eq]

/-- Settles O2: with no image the host's reset lists the two cells that `State.reset` names. -/
theorem resetIsHostResetWithoutImage : Obligations.ResetIsHostResetWithoutImage := by
  intro s
  rw [State.hostReset_eq, resetMemory_zero]
  rfl

end Sys2Proof
end

section
/-! PROOF. Families `20_memory.md` and `42_stack_calls.md`: the stack primitives (R46 to R48), the addressing modes (R51
to R54), and how an instruction completes that stores. -/

namespace Sys2Proof.Machine

/-! ## Completing with a store -/

/-- An instruction of `n` bytes that stores a word and writes no register. -/
theorem completes_of_exec_writeWord {i : Instr} {s : State} {n : Nat} {x v : Word}
    (h : exec i s = .next ((s.advance n).writeWord x v)) :
    Completes i s { s with pc := s.pc + BitVec.ofNat 16 n } (storedWord s.readByte x v) :=
  ⟨_, h, rfl, fun y => State.writeWord_readByte (s.advance n) x y v⟩

/-- An instruction of `n` bytes that stores a byte and writes no register. -/
theorem completes_of_exec_writeByte {i : Instr} {s : State} {n : Nat} {x : Word} {v : Byte}
    (h : exec i s = .next ((s.advance n).writeByte x v)) :
    Completes i s { s with pc := s.pc + BitVec.ofNat 16 n } (storedByte s.readByte x v) :=
  ⟨_, h, rfl, fun y => State.writeByte_readByte (s.advance n) x y v⟩

/-- An instruction of `n` bytes that pushes a word (R46). -/
theorem completes_of_exec_push {i : Instr} {s : State} {n : Nat} {v : Word}
    (h : exec i s = .next ((s.advance n).push v)) :
    Completes i s { s with sp := s.sp - 2, pc := s.pc + BitVec.ofNat 16 n } (storedWord s.readByte (s.sp - 1) v) :=
  ⟨_, h, rfl, fun y => State.push_readByte (s.advance n) v y⟩

/-- An instruction of `n` bytes that calls: the frame holds the address past those bytes and the caller's FP (R55). -/
theorem completes_of_exec_call {i : Instr} {s : State} {n : Nat} {target sp : Word}
    (h : exec i s = .next (((s.advance n).call target).setSp sp)) :
    Completes i s { s with sp := sp, fp := s.sp - 3, pc := target }
      (storedWord (storedWord s.readByte (s.sp - 1) (s.pc + BitVec.ofNat 16 n)) (s.sp - 3) s.fp) := by
  refine ⟨_, h, ?_, fun y => State.call_readByte (s.advance n) target y⟩
  apply State.ext_fields <;> simp

/-! ## Extensions as numbers -/

/-- Zero extension keeps the number that the byte stands for. -/
theorem zext16_eq_ofNat (v : Byte) : zext16 v = BitVec.ofNat 16 v.toNat := (BitVec.ofNat_toNat 16 v).symm

/-! ## The fast slots -/

/-- A fast slot lies at an offset from FP that its index alone gives: the slot's address when FP is 0 (R51). -/
theorem fastAddr_eq_add (fp : Word) (i : Nibble) : fastAddr fp i = fp + fastAddr 0 i := by
  unfold fastAddr
  split <;> bv_omega

theorem fastAddrs_eq (fp : Word) :
    (List.range 16).map (fun i => fastAddr fp (BitVec.ofNat 4 i)) =
      ((List.range 16).map fun i => fastAddr 0 (BitVec.ofNat 4 i)).map (fp + ·) := by
  rw [List.map_map]
  exact List.map_congr_left fun i _ => fastAddr_eq_add fp _

theorem fastOffsets : (List.range 16).map (fun i => fastAddr 0 (BitVec.ofNat 4 i)) =
    [-24, -22, -20, -18, -16, -14, -12, -10, -8, -6, -4, -2, 4, 6, 8, 10] := by decide

/-! ## The stack primitives -/

/-- Where a push puts its two bytes (D12): the word's second cell is the one at SP. -/
theorem State.push_readByte_cells (s : State) (v y : Word) :
    (s.push v).readByte y = if y = s.sp - 1 then lowByte v else if y = s.sp then highByte v else s.readByte y := by
  have hnext : s.sp - 1 + 1 = s.sp := by bv_omega
  have h := Memory.read_writeWord s.mem (s.sp - 1) y v
  rw [hnext] at h
  exact h

/-- The word on top is little-endian above SP (R47). -/
theorem State.top_eq (s : State) : s.top = joinBytes (s.readByte (s.sp + 1)) (s.readByte (s.sp + 2)) := by
  have hnext : s.sp + 1 + 1 = s.sp + 2 := by bv_omega
  rw [State.top, State.readWord, hnext]

/-- A pushed word is on top (R48). -/
theorem State.top_push (s : State) (v : Word) : (s.push v).top = v := by
  have htop : s.sp - 2 + 1 = s.sp - 1 := by bv_omega
  rw [State.top, State.readWord_eq_wordOf, State.push_sp, htop, wordOf_congr (s.push_readByte v), wordOf_storedWord]

theorem State.drop_push_sp (s : State) (v : Word) : (s.push v).drop.sp = s.sp := by
  rw [State.drop_sp, State.push_sp]
  bv_omega

/-! ## A return after a call -/

/-- Where SP stands when a return begins is not read (R56), so a call that reserves space is undone as well. -/
theorem State.ret_setSp (s : State) (sp : Word) : (s.setSp sp).ret = s.ret := by
  rw [State.ret_eq, State.ret_eq]
  rfl

end Sys2Proof.Machine

namespace Sys2Proof

open Machine

/-- Settles O17: a push as a word write below SP, a pop as a word read above it. -/
theorem pushStoresAndPopReads : Obligations.PushStoresAndPopReads := fun s =>
  ⟨fun v y => ⟨rfl, s.push_readByte_cells v y, rfl⟩, s.top_eq, rfl⟩

/-- Settles O18: the pop reads the word where the push wrote it, and SP moves back. -/
theorem popReturnsPushedWord : Obligations.PopReturnsPushedWord := fun s v => ⟨s.top_push v, s.drop_push_sp v⟩

/-- Settles O28: the pushes by the rule for a push, the pops leave memory as it is. -/
theorem pushesAndPops : Obligations.PushesAndPops := fun _ =>
  ⟨completes_of_exec_push rfl, completes_of_exec_push rfl, completes_of_mem_eq rfl rfl, completes_of_mem_eq rfl rfl⟩

/-- Settles O29: ALLOCZ zeroes the cells from SP down, whose offsets below SP are the first `n`. -/
theorem stackPointerMovesAndAllocation : Obligations.StackPointerMovesAndAllocation := by
  intro s n
  refine ⟨completes_of_exec_setA rfl, completes_of_mem_eq rfl rfl, _, rfl, ?_, fun x => ?_⟩
  · rw [← zext16_eq_ofNat]
    rfl
  · exact Memory.read_zeroDown s.mem s.sp x n.toNat

/-- Settles O30: the frame of a call, with SP where it leaves it or below that. -/
theorem calls : Obligations.Calls := by
  intro s t n
  have hcall : ∀ (len : Nat) (target : Word),
      (s.advance len).call target = ((s.advance len).call target).setSp (s.sp - 4) := fun len target =>
    State.ext_fields rfl rfl ((s.advance len).call_sp target) rfl rfl rfl rfl rfl rfl rfl rfl
  refine ⟨completes_of_exec_call (n := 3) (congrArg _ (hcall 3 t)), completes_of_exec_call (n := 4) ?_,
    completes_of_exec_call (n := 1) (congrArg _ (hcall 1 s.a))⟩
  have hexec : exec (.callalloc t n) s =
      .next (((s.advance 4).call t).setSp (((s.advance 4).call t).sp - zext16 n)) := rfl
  rw [hexec, zext16_eq_ofNat, State.call_sp, State.advance_sp]

/-- Settles O32: the return reads the frame at FP, which the reserved bytes below it leave alone. -/
theorem returnAfterCallalloc : Obligations.ReturnAfterCallalloc := by
  intro s target n
  obtain ⟨hpc, hfp, hsp⟩ := (s.advance 4).ret_call_registers target
  refine ⟨((s.advance 4).call target).setSp (((s.advance 4).call target).sp - zext16 n), _, rfl, exec_ret _, ?_⟩
  rw [← State.ret_eq, State.ret_setSp]
  refine ⟨hpc, hfp, hsp, ?_, ?_⟩ <;> rw [State.ret_eq] <;> rfl

/-- Settles O20: the fast offsets by evaluation, the other displacements as integers added to FP. -/
theorem addressingModes : Obligations.AddressingModes := by
  intro fp d16 a16 d8
  refine ⟨?_, ?_, ?_, rfl⟩
  · rw [fastAddrs_eq, fastOffsets]
    simp only [List.map, BitVec.sub_eq_add_neg]
  · rw [BitVec.ofInt_add, BitVec.ofInt_natCast, BitVec.ofNat_toNat, BitVec.setWidth_eq]
    rfl
  · rw [BitVec.ofInt_add, BitVec.ofInt_natCast, BitVec.ofNat_toNat, BitVec.setWidth_eq, BitVec.ofInt_toInt]
    rfl

end Sys2Proof
end

section
/-! PROOF. Families `40_nibble_block.md` and `41_load_store.md`: loads, stores and immediates (R100 to R106, R120 to
R144). -/

namespace Sys2Proof.Machine

/-! ## Completing with a result said in the words of the rule -/

/-- An instruction of `n` bytes that writes A alone, with the value said in another way. -/
theorem completes_of_exec_setA_eq {i : Instr} {s : State} {n : Nat} {v w : Word}
    (h : exec i s = .next ((s.advance n).setA v)) (hv : v = w) :
    Completes i s { s with a := w, pc := s.pc + BitVec.ofNat 16 n } s.readByte :=
  hv ▸ completes_of_exec_setA h

/-- An instruction of `n` bytes that writes B alone, with the value said in another way. -/
theorem completes_of_exec_setB_eq {i : Instr} {s : State} {n : Nat} {v w : Word}
    (h : exec i s = .next ((s.advance n).setB v)) (hv : v = w) :
    Completes i s { s with b := w, pc := s.pc + BitVec.ofNat 16 n } s.readByte :=
  hv ▸ completes_of_exec_setB h

end Sys2Proof.Machine

namespace Sys2Proof

open Machine

/-- Settles O22: each loads, stores or pushes one word; PUSH_FAST reads its slot in the state before. -/
theorem fastSlotAccessAndNibblePush : Obligations.FastSlotAccessAndNibblePush := fun _ n =>
  ⟨completes_of_exec_setA rfl, completes_of_exec_setB rfl, completes_of_exec_push rfl, completes_of_exec_writeWord rfl,
    zextNibble_eq_ofNat n ▸ completes_of_exec_push rfl⟩

/-- Settles O23: the addresses are those of R52 to R54 by definition. -/
theorem wordLoads : Obligations.WordLoads := fun _ _ _ =>
  ⟨completes_of_exec_setA rfl, completes_of_exec_setA rfl, completes_of_exec_setA rfl,
    completes_of_exec_setB rfl, completes_of_exec_setB rfl, completes_of_exec_setB rfl⟩

/-- Settles O24: one word store at each form's address. -/
theorem wordStores : Obligations.WordStores := fun _ _ _ =>
  ⟨completes_of_exec_writeWord rfl, completes_of_exec_writeWord rfl, completes_of_exec_writeWord rfl⟩

/-- Settles O25: the loaded byte is zero-extended (D10). -/
theorem byteLoadsAndStores : Obligations.ByteLoadsAndStores := fun _ _ _ =>
  ⟨completes_of_exec_setA_eq rfl (zext16_eq_ofNat _), completes_of_exec_setA_eq rfl (zext16_eq_ofNat _),
    completes_of_exec_setA_eq rfl (zext16_eq_ofNat _),
    completes_of_exec_writeByte rfl, completes_of_exec_writeByte rfl, completes_of_exec_writeByte rfl⟩

/-- Settles O26: the extensions are the numbers that the byte stands for, signed and unsigned. -/
theorem immediateLoads : Obligations.ImmediateLoads := fun _ v _ =>
  ⟨completes_of_exec_setA_eq rfl (sext16_eq_ofInt v), completes_of_exec_setA_eq rfl (zext16_eq_ofNat v),
    completes_of_exec_setA rfl,
    completes_of_exec_setB_eq rfl (sext16_eq_ofInt v), completes_of_exec_setB_eq rfl (zext16_eq_ofNat v),
    completes_of_exec_setB rfl⟩

/-- Settles O27: the popped word is read before the store, and of a popped word only the low byte's cell matters to
POPSTOREB (R143, R144). -/
theorem indirectAccess : Obligations.IndirectAccess := by
  intro s
  have hlow : lowByte s.top = s.readByte (s.sp + 1) := lowByte_joinBytes _ _
  refine ⟨completes_of_exec_setA rfl, completes_of_exec_setA_eq rfl (zext16_eq_ofNat _), ⟨_, rfl, rfl, fun x => ?_⟩,
    ⟨_, rfl, rfl, fun x => ?_⟩⟩
  · exact State.writeWord_readByte (s.advance 1).drop s.a x s.top
  · rw [State.writeByte_readByte, hlow]
    rfl

end Sys2Proof
end

section
/-! PROOF. Family `43_alu.md`: the results of the ALU as operations of the word type (R180 to R209). -/

namespace Sys2Proof.Machine

/-! ## Integers cut to 16 bits -/

theorem trunc16_natCast (n : Nat) : trunc16 n = BitVec.ofNat 16 n := BitVec.ofInt_natCast 16 n

/-- A word is the number it stands for, cut to 16 bits. -/
theorem ofInt_natCast_toNat (v : Word) : BitVec.ofInt 16 (v.toNat : Int) = v := by
  rw [BitVec.ofInt_natCast, BitVec.ofNat_toNat, BitVec.setWidth_eq]

theorem ofInt_sub_toNat (v w : Word) : BitVec.ofInt 16 ((v.toNat : Int) - w.toNat) = v - w := by
  rw [Int.sub_eq_add_neg, BitVec.ofInt_add, BitVec.ofInt_neg, ofInt_natCast_toNat, ofInt_natCast_toNat,
    BitVec.sub_eq_add_neg]

/-! ## Product, quotients and remainders -/

theorem mulResult_eq (a b : Word) : mulResult a b = a * b := by
  rw [mulResult, trunc16_natCast, BitVec.ofNat_mul, BitVec.ofNat_toNat, BitVec.ofNat_toNat, BitVec.setWidth_eq,
    BitVec.setWidth_eq]

theorem divuResult_eq (a b : Word) : divuResult a b = a / b := by
  rw [divuResult, trunc16_natCast, BitVec.udiv_def]

theorem moduResult_eq (a b : Word) : moduResult a b = a % b := by
  rw [moduResult, trunc16_natCast, ← Nat.mod_eq_sub_mul_div, BitVec.umod_def]

/-- The quotient toward zero; -32768 / -1 leaves the range and wraps on both sides (D8). -/
theorem divsResult_eq (a b : Word) : divsResult a b = a.sdiv b := by
  apply BitVec.eq_of_toInt_eq
  rw [divsResult, trunc16, BitVec.toInt_ofInt, BitVec.toInt_sdiv]
  rfl

theorem modsResult_eq (a b : Word) : modsResult a b = a.srem b := by
  have hrem : s16 a - s16 b * (s16 a).tdiv (s16 b) = (a.srem b).toInt := by
    rw [BitVec.toInt_srem, Int.tmod_def]
    rfl
  rw [modsResult, hrem, trunc16, BitVec.ofInt_toInt]

/-! ## Shifts by the whole of B -/

theorem shlResult_eq (a b : Word) : shlResult a b = a <<< b.toNat := by
  unfold shlResult
  split
  · next h => exact (BitVec.shiftLeft_eq_zero h).symm
  · apply BitVec.eq_of_toNat_eq
    rw [trunc16_natCast, BitVec.toNat_ofNat, BitVec.toNat_shiftLeft, Nat.shiftLeft_eq]

theorem shrResult_eq (a b : Word) : shrResult a b = a >>> b.toNat := by
  unfold shrResult
  split
  · next h => exact (BitVec.ushiftRight_eq_zero h).symm
  · apply BitVec.eq_of_toNat_eq
    rw [trunc16_natCast, ← Nat.shiftRight_eq_div_pow, ← BitVec.toNat_ushiftRight, BitVec.ofNat_toNat,
      BitVec.setWidth_eq]

/-- Fifteen places already leave the sign alone (D9). -/
theorem sshiftRight_min (a : Word) (n : Nat) : a.sshiftRight (min n 15) = a.sshiftRight n := by
  apply BitVec.eq_of_getLsbD_eq
  intro k hk
  simp only [BitVec.getLsbD_sshiftRight]
  by_cases hn : n ≤ 15
  · rw [min_eq_left hn]
  · rw [min_eq_right (by omega), if_neg (show ¬ n + k < 16 by omega)]
    split
    · rw [show 15 + k = 15 by omega, BitVec.msb_eq_getLsbD_last]
    · rfl

theorem asrResult_eq (a b : Word) : asrResult a b = a.sshiftRight b.toNat := by
  rw [← sshiftRight_min, asrResult, trunc16, BitVec.sshiftRight, Int.shiftRight_eq_div_pow,
    Int.fdiv_eq_ediv_of_nonneg _ (by positivity)]
  norm_cast

/-! ## Comparisons -/

theorem bool16_eq_ite {c : Bool} {p : Prop} [Decidable p] (h : c = true ↔ p) : bool16 c = if p then 1 else 0 := by
  simp only [bool16, h]

theorem bool16_eq_ite_not {c : Bool} {p : Prop} [Decidable p] (h : c = true ↔ ¬ p) :
    bool16 c = if p then 0 else 1 := by
  simp only [bool16, h, ite_not]

/-! ## The divides -/

theorem divide_of_ne_zero (f : Word → Word → Word) (g : Word → Word) {s : State} (h : s.b ≠ 0) :
    divide f g s = .next ((s.advance 1).setA (f s.a s.b)) := if_neg h

theorem divide_of_fault (f : Word → Word → Word) (g : Word → Word) {s : State} (h : s.b = 0)
    (hpolicy : s.params.div0 = .fault) :
    divide f g s = .next ((s.advance 1).raiseDivideByZero s.pc (s.readByte s.pc)) := by
  rw [divide, if_pos h, hpolicy]

theorem divide_of_value (f : Word → Word → Word) (g : Word → Word) {s : State} (h : s.b = 0)
    (hpolicy : s.params.div0 = .value) : divide f g s = .next ((s.advance 1).setA (g s.a)) := by
  rw [divide, if_pos h, hpolicy]

end Sys2Proof.Machine

namespace Sys2Proof

open Machine

/-- Settles O33: exact integers cut to 16 bits are the word operations. -/
theorem wrappingArithmetic : Obligations.WrappingArithmetic := by
  intro s
  refine ⟨completes_of_exec_setA_eq rfl ?_, completes_of_exec_setA_eq rfl (ofInt_sub_toNat _ _).symm,
    completes_of_exec_setA_eq rfl (mulResult_eq _ _), completes_of_exec_setA_eq rfl ?_⟩
  · rw [BitVec.ofNat_add, BitVec.ofNat_toNat, BitVec.ofNat_toNat, BitVec.setWidth_eq, BitVec.setWidth_eq]
  · rw [BitVec.ofInt_neg, ofInt_natCast_toNat]
    exact BitVec.zero_sub _

/-- Settles O34: the complement is the exclusive-or with all ones (R189). -/
theorem bitwiseOperations : Obligations.BitwiseOperations := fun _ =>
  ⟨completes_of_exec_setA_eq rfl BitVec.xor_allOnes, completes_of_exec_setA rfl, completes_of_exec_setA rfl,
    completes_of_exec_setA rfl⟩

/-- Settles O35: past the test for zero, each result is the word type's own quotient or remainder. -/
theorem divisionByNonzero : Obligations.DivisionByNonzero := fun s h =>
  ⟨completes_of_exec_setA_eq (divide_of_ne_zero _ _ h) (divuResult_eq s.a s.b),
    completes_of_exec_setA_eq (divide_of_ne_zero _ _ h) (moduResult_eq s.a s.b),
    completes_of_exec_setA_eq (divide_of_ne_zero _ _ h) (divsResult_eq s.a s.b),
    completes_of_exec_setA_eq (divide_of_ne_zero _ _ h) (modsResult_eq s.a s.b)⟩

/-- Settles O36, under each policy. -/
theorem divisionByZero : Obligations.DivisionByZero := by
  intro s h after
  constructor
  · intro hpolicy
    have hraise : ∀ {i : Instr} {f : Word → Word → Word} {g : Word → Word}, exec i s = divide f g s →
        Completes i s after s.readByte := fun hexec =>
      completes_of_mem_eq (hexec.trans (divide_of_fault _ _ h hpolicy)) rfl
    exact ⟨hraise (f := divuResult) rfl, hraise (f := divsResult) rfl, hraise (f := moduResult) rfl,
      hraise (f := modsResult) rfl⟩
  · intro hpolicy
    exact ⟨completes_of_exec_setA (divide_of_value divuResult Config.zeroQuotient h hpolicy),
      completes_of_exec_setA (divide_of_value divsResult Config.zeroQuotient h hpolicy),
      completes_of_exec_setA (divide_of_value moduResult Config.zeroRemainder h hpolicy),
      completes_of_exec_setA (divide_of_value modsResult Config.zeroRemainder h hpolicy)⟩

/-- Settles O37: each shift by the whole of B is the word type's own shift. -/
theorem reverseSubtractAndShifts : Obligations.ReverseSubtractAndShifts := fun _ =>
  ⟨completes_of_exec_setA_eq rfl (ofInt_sub_toNat _ _).symm, completes_of_exec_setA_eq rfl (shlResult_eq _ _),
    completes_of_exec_setA_eq rfl (shrResult_eq _ _), completes_of_exec_setA_eq rfl (asrResult_eq _ _)⟩

/-- Settles O38: each condition is the order it names, or the opposite of the reversed one. -/
theorem comparisons : Obligations.Comparisons := fun _ =>
  ⟨completes_of_exec_setA_eq rfl (bool16_eq_ite decide_eq_true_iff),
    completes_of_exec_setA_eq rfl (bool16_eq_ite_not decide_eq_true_iff),
    completes_of_exec_setA_eq rfl (bool16_eq_ite decide_eq_true_iff),
    completes_of_exec_setA_eq rfl (bool16_eq_ite_not (decide_eq_true_iff.trans Nat.not_lt.symm)),
    completes_of_exec_setA_eq rfl (bool16_eq_ite decide_eq_true_iff),
    completes_of_exec_setA_eq rfl (bool16_eq_ite_not (decide_eq_true_iff.trans Nat.not_lt.symm)),
    completes_of_exec_setA_eq rfl (bool16_eq_ite Iff.rfl),
    completes_of_exec_setA_eq rfl (bool16_eq_ite_not (decide_eq_true_iff.trans (by simp [BitVec.slt, s16]))),
    completes_of_exec_setA_eq rfl (bool16_eq_ite Iff.rfl),
    completes_of_exec_setA_eq rfl (bool16_eq_ite_not (decide_eq_true_iff.trans (by simp [BitVec.slt, s16])))⟩

end Sys2Proof
end

section
/-! PROOF. Family `44_control.md`: jumps and switches (R230 to R239), and the self-loop that parks the engine (R320). -/

namespace Sys2Proof.Machine

/-! ## Jumps -/

/-- A jump writes PC alone: the target, or the address past its bytes. -/
theorem completes_of_exec_jumpIf {i : Instr} {s : State} {taken : Bool} {len : Nat} {target pc : Word}
    (h : exec i s = jumpIf taken len target s) (hpc : (if taken then target else s.pc + BitVec.ofNat 16 len) = pc) :
    Completes i s { s with pc := pc } s.readByte := by
  subst hpc
  exact completes_of_mem_eq (h.trans (jumpIf_eq taken len target s)) rfl

theorem ite_truthy {α : Type} (v : Word) (x y : α) : (if truthy v then x else y) = if v = 0 then y else x := by
  simp [truthy]

theorem ite_not_truthy {α : Type} (v : Word) (x y : α) : (if !truthy v then x else y) = if v = 0 then x else y := by
  simp [truthy]

/-- Displacement 0x01 is the jump itself, under every binding (R230). -/
theorem rel8Target_one (r : Config.Rel8Binding) (x : Word) : rel8Target r x 0x01 = x := by
  cases r with
  | backward => exact add_sub_cancel_right x 1
  | other => rw [rel8Target, if_pos rfl]

theorem rel8Target_backward (x : Word) (d : Byte) :
    rel8Target .backward x d = BitVec.ofInt 16 ((x.toNat : Int) + 1 - d.toInt) := by
  rw [Int.sub_eq_add_neg, BitVec.ofInt_add, BitVec.ofInt_add, BitVec.ofInt_neg, ofInt_natCast_toNat,
    ← BitVec.sub_eq_add_neg]
  rfl

/-! ## Switches -/

theorem exec_switchrange_intended {s : State} (low high dflt : Word) (h : s.params.switchRange = .intended) :
    exec (.switchrange low high dflt) s =
      .next (s.setPc (if s.a.toInt < low.toInt ∨ high.toInt < s.a.toInt then dflt else tableTarget s low)) := by
  have hexec : exec (.switchrange low high dflt) s = execSwitchrange low high dflt s := rfl
  rw [hexec, execSwitchrange, h]
  exact (apply_ite (fun pc => (.next (s.setPc pc) : Result)) _ dflt (tableTarget s low)).symm

theorem exec_switchlist (pairs : List (Word × Word)) (dflt : Word) (s : State) :
    exec (.switchlist pairs dflt) s = .next (s.setPc (switchTarget s.a dflt pairs)) := rfl

/-! ## The self-loop -/

/-- The bytes 0xD9, 0x01 at PC decode, under a binding that keeps 0xD9, to the jump to itself. -/
theorem fetchWindow_decodes_selfLoop {s : State} (hk : kindAt s.params.opmap 0xD9 = .jmpRel8)
    (h0 : s.readByte s.pc = 0xD9) (h1 : s.readByte (s.pc + 1) = 0x01) :
    ∃ rest, decode s.params.opmap s.fetchWindow = .ok (.jmpRel8 0x01, rest) := by
  have hbytes : s.bytesFrom s.pc 2 = [0xD9, 0x01] := by simp only [State.bytesFrom, h0, h1]
  refine ⟨s.bytesFrom (s.pc + 2) (maxLength - 2), ?_⟩
  rw [fetchWindow_eq_append s (n := 2) (by decide), hbytes]
  exact decode_of_kindAt rfl hk rfl

theorem exec_jmpRel8_one (s : State) : exec (.jmpRel8 0x01) s = .next s := by
  have hexec : exec (.jmpRel8 0x01) s = .next (s.setPc (rel8Target s.params.rel8 s.pc 0x01)) := rfl
  rw [hexec, rel8Target_one]
  rfl

end Sys2Proof.Machine

namespace Sys2Proof

open Machine

/-- Settles O40: the taken jump goes to the target, and the tests of A are tests for zero (D33). -/
theorem relativeJumps : Obligations.RelativeJumps :=
  ⟨fun _ _ => ⟨completes_of_exec_jumpIf rfl rfl, completes_of_exec_jumpIf rfl (ite_not_truthy _ _ _),
    completes_of_exec_jumpIf rfl (ite_truthy _ _ _)⟩, rel8Target_one, rel8Target_backward⟩

/-- Settles O41: the step is the jump to itself, which leaves the state with its trace event. -/
theorem selfLoopParks : Obligations.SelfLoopParks := by
  intro s hk hs h0 h1
  obtain ⟨rest, hdecode⟩ := fetchWindow_decodes_selfLoop hk h0 h1
  rw [step_of_decode hs hdecode, exec_jmpRel8_one, State.trace_eq]

/-- Settles O42, as for the relative jumps. -/
theorem absoluteJumps : Obligations.AbsoluteJumps := fun _ _ =>
  ⟨completes_of_exec_jumpIf rfl rfl, completes_of_exec_jumpIf rfl (ite_not_truthy _ _ _),
    completes_of_exec_jumpIf rfl (ite_truthy _ _ _)⟩

/-- Settles O44: both branches write PC alone. -/
theorem switchrangeIntended : Obligations.SwitchrangeIntended := fun _ low high dflt h =>
  completes_of_mem_eq (exec_switchrange_intended low high dflt h) rfl

/-- Settles O45: the scan passes the pairs that differ from the selector. -/
theorem switchlistTakesFirstMatch : Obligations.SwitchlistTakesFirstMatch := by
  intro s before after t dflt h
  have hnone := exec_switchlist before dflt s
  have hmatch := exec_switchlist (before ++ (s.a, t) :: after) dflt s
  rw [switchTarget_of_no_match _ _ _ h] at hnone
  rw [switchTarget_of_match _ _ _ _ _ h] at hmatch
  exact ⟨completes_of_mem_eq hnone rfl, completes_of_mem_eq hmatch rfl⟩

end Sys2Proof
end

section
/-! PROOF. Family `45_io_block.md`: port 0 (R260, R261) and the block memory instructions (R264 to R266). -/

namespace Sys2Proof.Machine

/-! ## The port -/

/-- A draw that the host answers goes to A, and the host is told (R260). -/
theorem exec_portIn_of_drawInput {s t : State} {v : Word} (h : (s.advance 2).drawInput = some (v, t)) :
    exec (.portIn 0) s = .next ((t.setA v).emit (.input s.pc)) := by
  have hexec : exec (.portIn 0) s = execPortIn 0 s := rfl
  rw [hexec, execPortIn, if_pos rfl, h]

theorem exec_portIn_of_silent {s : State} {rest : List HostAnswer} (h : s.input = .silent :: rest) :
    exec (.portIn 0) s = .fault .hostSilent := by
  have hdraw : (s.advance 2).drawInput = none := State.drawInput_eq_none.mpr ⟨rest, h⟩
  have hexec : exec (.portIn 0) s = execPortIn 0 s := rfl
  rw [hexec, execPortIn, if_pos rfl, hdraw]

theorem exec_portIn_of_ne {port : Byte} (s : State) (h : port ≠ 0) : exec (.portIn port) s = .next (s.advance 2) :=
  if_neg h

theorem State.drawInput_of_byte {s : State} {b : Byte} {rest : List HostAnswer} (h : s.input = .byte b :: rest) :
    s.drawInput = some (zext16 b, s.setInput rest) := by
  simp only [State.drawInput, h]

theorem State.drawInput_of_nil {s : State} (h : s.input = []) :
    s.drawInput = some (Config.endOfInput s.inputDraws, s.setInputDraws (s.inputDraws + 1)) := by
  simp only [State.drawInput, h]

/-! ## The block copy -/

/-- The `k`-th copied byte (R264): its source as it was, or, where the source is among the bytes copied before it, as
the copy left it. -/
theorem Memory.read_copy_eq_ite (m : Memory) (dst src : Word) {n : Nat} (hn : n < 65536) {k : Word} (hk : k.toNat < n) :
    (m.copy dst src n).read (dst + k) =
      if (src + k - dst).toNat < k.toNat then (m.copy dst src n).read (src + k) else m.read (src + k) := by
  have hofNat : ∀ x : Word, BitVec.ofNat 16 x.toNat = x := fun x => by rw [BitVec.ofNat_toNat, BitVec.setWidth_eq]
  have hcopied : (m.copy dst src n).read (dst + k) = (m.copy dst src k.toNat).read (src + k) := by
    have h := Memory.read_copy m dst src n hn k.toNat hk
    rwa [hofNat] at h
  rw [hcopied]
  split
  · next hlt =>
    have hsource : src + k = dst + BitVec.ofNat 16 (src + k - dst).toNat := by rw [hofNat]; bv_omega
    rw [hsource, Memory.read_copy m dst src n hn _ (by omega), Memory.read_copy m dst src k.toNat (by omega) _ hlt]
  · next hge => exact Memory.read_copy_outside m dst src _ _ (by omega)

/-- The block compare with offsets as words, which `n` below 2^16 allows (R266). -/
theorem Memory.equalBlocks_iff_word (m : Memory) (x y n : Word) :
    m.equalBlocks x y n.toNat = true ↔ ∀ k : Word, k < n → m.read (x + k) = m.read (y + k) := by
  rw [Memory.equalBlocks_iff]
  constructor
  · intro h k hk
    have := h k.toNat hk
    rwa [BitVec.ofNat_toNat, BitVec.setWidth_eq] at this
  · intro h k hk
    exact h _ (by bv_omega)

theorem exec_bcmp (n : Word) (s : State) :
    exec (.bcmp n) s = .next ((s.advance 3).setA (bool16 (s.mem.equalBlocks s.a s.b n.toNat))) := rfl

end Sys2Proof.Machine

namespace Sys2Proof

open Machine

/-- Settles O46: a draw has a byte, a free value or no answer; another port draws nothing. -/
theorem portInput : Obligations.PortInput := by
  intro s
  refine ⟨fun v rest h => ?_, fun h => ?_, fun rest h => exec_portIn_of_silent h, fun port h => ?_⟩
  · rw [← zext16_eq_ofNat]
    exact completes_of_mem_eq (exec_portIn_of_drawInput (State.drawInput_of_byte (s := s.advance 2) h)) rfl
  · exact completes_of_mem_eq (exec_portIn_of_drawInput (State.drawInput_of_nil (s := s.advance 2) h)) rfl
  · exact completes_of_mem_eq (exec_portIn_of_ne s h) rfl

/-- Settles O47, on port 0 and on any other. -/
theorem portOutput : Obligations.PortOutput := by
  intro s port
  by_cases h : port = 0
  · have hexec : exec (.portOut port) s = .next ((s.advance 2).emit (.output (lowByte s.a))) := if_pos h
    rw [if_pos h]
    exact completes_of_mem_eq hexec rfl
  · have hexec : exec (.portOut port) s = .next (s.advance 2) := if_neg h
    rw [if_neg h]
    exact completes_of_mem_eq hexec rfl

/-- Settles O48, with the cells of the copied memory as the witness. -/
theorem blockCopy : Obligations.BlockCopy := fun s n =>
  ⟨(s.mem.copy s.a s.b n.toNat).read, ⟨_, rfl, rfl, fun _ => rfl⟩,
    fun x hx => Memory.read_copy_outside s.mem s.a s.b x n.toNat hx,
    fun _ hk => Memory.read_copy_eq_ite s.mem s.a s.b n.isLt hk⟩

/-- Settles O49, by the law of the fill. -/
theorem blockFill : Obligations.BlockFill := fun s n =>
  ⟨_, rfl, rfl, fun x => Memory.read_fill s.mem s.a x (lowByte s.b) n.toNat⟩

/-- Settles O50: the two clauses are the two answers of the compare. -/
theorem blockCompare : Obligations.BlockCompare := by
  intro s n
  have hiff := Memory.equalBlocks_iff_word s.mem s.a s.b n
  constructor
  · intro h
    exact completes_of_exec_setA_eq (exec_bcmp n s) (by rw [hiff.mpr h]; rfl)
  · rintro ⟨k, hk, hne⟩
    have hfalse : s.mem.equalBlocks s.a s.b n.toNat = false := by
      rw [← Bool.not_eq_true, hiff]
      exact fun h => hne (h k hk)
    exact completes_of_exec_setA_eq (exec_bcmp n s) (by rw [hfalse]; rfl)

end Sys2Proof
end

section
/-! PROOF. Family `46_bitfield_dcount.md`: the fields of B, bit by bit (R280 to R282), and DCOUNT's four modes
(R283). -/

namespace Sys2Proof.Machine

/-! ## The fields, bit by bit -/

theorem getLsbD_allOnes_word {k : Nat} (hk : k < 16) : (0xFFFF : Word).getLsbD k = true := by
  have h := BitVec.getLsbD_allOnes (v := 16) (i := k)
  rwa [decide_eq_true hk] at h

/-- The sign is ored in above the field alone (R280). -/
theorem signedFieldOf_getLsbD_eq_or (b : Word) (start top : Nat) (htop : top < 16) {k : Nat} (hk : k < 16) :
    (signedFieldOf b start (top + 1)).getLsbD k =
      ((decide (k < top + 1) && b.getLsbD (start + k)) || (b.getLsbD (start + top) && !decide (k < top + 1))) := by
  have hsign : (fieldOf b start (top + 1)).getLsbD top = b.getLsbD (start + top) := by
    rw [fieldOf_getLsbD b start (top + 1) htop, decide_eq_true (Nat.lt_succ_self top), Bool.true_and]
  simp only [signedFieldOf, Nat.add_sub_cancel, hsign]
  split
  · next h =>
    rw [h, BitVec.getLsbD_or, BitVec.getLsbD_xor, fieldOf_getLsbD _ _ _ hk, getLsbD_allOnes_word hk,
      fieldMask_getLsbD hk, Bool.true_xor, Bool.true_and]
  · next h => rw [Bool.eq_false_iff.mpr h, fieldOf_getLsbD _ _ _ hk, Bool.false_and, Bool.or_false]

/-- Sign extension repeats the field's top bit above it (R280). -/
theorem signedFieldOf_getLsbD (b : Word) (start top : Nat) (htop : top < 16) {k : Nat} (hk : k < 16) :
    (signedFieldOf b start (top + 1)).getLsbD k = b.getLsbD (start + min k top) := by
  rw [signedFieldOf_getLsbD_eq_or b start top htop hk]
  by_cases hin : k < top + 1
  · rw [min_eq_left (by omega)]
    simp [hin]
  · rw [min_eq_right (by omega)]
    simp [hin]

/-- Inside the field the bit is A's, outside it B's (R282). -/
theorem insertField_getLsbD (a b : Word) (start w : Nat) {k : Nat} (hk : k < 16) :
    (insertField a b start w).getLsbD k =
      if start ≤ k ∧ k < start + w then a.getLsbD (k - start) else b.getLsbD k := by
  have hmask : (trunc16 ((fieldMask w).toNat * 2 ^ start : Nat)).getLsbD k = decide (start ≤ k ∧ k < start + w) := by
    rw [trunc16_shift_getLsbD _ _ hk, fieldMask_getLsbD (by omega), ← Bool.decide_and]
    exact decide_eq_decide.mpr (by omega)
  simp only [insertField, BitVec.getLsbD_or, BitVec.getLsbD_and, BitVec.getLsbD_xor, getLsbD_allOnes_word hk, hmask,
    trunc16_shift_getLsbD a start hk]
  split
  · next h => simp [h]
  · next h => simp [h]

/-! ## A field that fits B, stored and loaded back -/

/-- The field that comes back is the low bits of A (R282; conflict C5). -/
theorem fieldOf_insertField (a b : Word) {start w : Nat} (hfit : start + w ≤ 16) :
    fieldOf (insertField a b start w) start w = (a.setWidth w).setWidth 16 := by
  apply BitVec.eq_of_getLsbD_eq
  intro k hk
  rw [fieldOf_getLsbD _ _ _ hk, BitVec.getLsbD_setWidth, BitVec.getLsbD_setWidth, decide_eq_true hk, Bool.true_and]
  by_cases hin : k < w
  · rw [insertField_getLsbD _ _ _ _ (by omega), if_pos (by omega), Nat.add_sub_cancel_left]
  · simp [hin]

theorem signedFieldOf_insertField (a b : Word) {start top : Nat} (hfit : start + (top + 1) ≤ 16) :
    signedFieldOf (insertField a b start (top + 1)) start (top + 1) = (a.setWidth (top + 1)).signExtend 16 := by
  apply BitVec.eq_of_getLsbD_eq
  intro k hk
  have hbit : ∀ j, j ≤ top → (insertField a b start (top + 1)).getLsbD (start + j) = a.getLsbD j := fun j hj => by
    rw [insertField_getLsbD _ _ _ _ (by omega), if_pos (by omega), Nat.add_sub_cancel_left]
  rw [signedFieldOf_getLsbD _ _ _ (by omega) hk, hbit _ (min_le_right k top), BitVec.getLsbD_signExtend,
    decide_eq_true hk, Bool.true_and]
  split
  · next hin => rw [min_eq_left (by omega), BitVec.getLsbD_setWidth, decide_eq_true hin, Bool.true_and]
  · next hout =>
    rw [min_eq_right (by omega), BitVec.msb_eq_getLsbD_last, BitVec.getLsbD_setWidth]
    simp

theorem toNat_fieldOf_insertField (a b : Word) {start w : Nat} (hfit : start + w ≤ 16) :
    (fieldOf (insertField a b start w) start w).toNat = a.toNat % 2 ^ w := by
  have hle : 2 ^ w ≤ 2 ^ 16 := Nat.pow_le_pow_right (by decide) (by omega)
  have hlt : a.toNat % 2 ^ w < 2 ^ w := Nat.mod_lt _ (Nat.two_pow_pos w)
  rw [fieldOf_insertField a b hfit, BitVec.toNat_setWidth, BitVec.toNat_setWidth, Nat.mod_eq_of_lt (by omega)]

theorem toInt_signedFieldOf_insertField (a b : Word) {start top : Nat} (hfit : start + (top + 1) ≤ 16) :
    (signedFieldOf (insertField a b start (top + 1)) start (top + 1)).toInt = (a.toNat : Int).bmod (2 ^ (top + 1)) := by
  rw [signedFieldOf_insertField a b hfit, BitVec.toInt_signExtend_of_le (by omega), BitVec.toInt_setWidth]

/-! ## DCOUNT -/

/-- The byte steps are the steps of one (R283). -/
theorem dcIsByte_iff (st : DcStep) : dcIsByte st = true ↔ st = .plus1 ∨ st = .minus1 := by
  cases st <;> decide

theorem State.load_eq_ite (s : State) (st : DcStep) (x : Word) :
    s.load st x =
      if st = .plus1 ∨ st = .minus1 then BitVec.ofNat 16 (s.readByte x).toNat else wordOf s.readByte x := by
  simp only [State.load_eq, zext16_eq_ofNat, dcIsByte_iff]

theorem State.store_readByte_eq_ite (s : State) (st : DcStep) (x v y : Word) :
    (s.store st x v).readByte y =
      (if st = .plus1 ∨ st = .minus1 then storedByte s.readByte x (lowByte v) else storedWord s.readByte x v) y := by
  simp only [State.store_readByte, dcIsByte_iff]

/-- The cells after a byte or a word is stored depend on the cells before alone. -/
theorem storedWord_congr {rd rd' : Word → Byte} (h : ∀ y, rd y = rd' y) (x v y : Word) :
    storedWord rd x v y = storedWord rd' x v y := by
  simp only [storedWord, storedByte, h]

theorem dcStepValue_eq (st : DcStep) :
    dcStepValue st = BitVec.ofInt 16 (match st with | .plus1 => 1 | .plus2 => 2 | .minus1 => -1 | .minus2 => -2) := by
  cases st <;> rfl

end Sys2Proof.Machine

namespace Sys2Proof

open Machine

/-- Settles O51: the width is one more than the index of the field's top bit. -/
theorem fieldLoads : Obligations.FieldLoads := fun s start wm1 =>
  ⟨_, _, completes_of_exec_setA rfl, completes_of_exec_setA rfl, fun k hk =>
    ⟨(fieldOf_getLsbD s.b start.toNat (fieldWidth wm1) hk).trans (by simp only [fieldWidth, Nat.lt_succ_iff]),
      signedFieldOf_getLsbD s.b start.toNat wm1.toNat wm1.isLt hk⟩⟩

/-- Settles O52, by the bits of the inserted field. -/
theorem fieldStore : Obligations.FieldStore := fun s start wm1 =>
  ⟨_, completes_of_exec_setB rfl, fun k hk => by
    rw [insertField_getLsbD _ _ _ _ hk]
    simp only [fieldWidth, ← Nat.add_assoc, Nat.lt_succ_iff]⟩

/-- Settles O53: both loads read the field that STOREBF put into B. -/
theorem storedFieldLoadsBack : Obligations.StoredFieldLoadsBack := fun s _ _ hfit =>
  ⟨_, _, _, rfl, rfl, rfl, toNat_fieldOf_insertField s.a s.b hfit, toInt_signedFieldOf_insertField s.a s.b hfit⟩

/-- Settles O54: in each mode the answered state is written out, with the load or the store before the slot's write or
after it. -/
theorem directCountModes : Obligations.DirectCountModes := by
  intro s st i slot p q isByte load store stepped
  have hq : p + dcStepValue st = q := congrArg (p + ·) (dcStepValue_eq st)
  have hstepped : ∀ x, ((s.advance 2).writeWord slot q).readByte x = stepped x := fun x =>
    State.writeWord_readByte (s.advance 2) slot x q
  refine ⟨?ldpost, ?stpost, ?ldpre, ?stpre⟩
  case ldpost =>
    refine ⟨((s.advance 2).setA ((s.advance 2).load st p)).writeWord slot q, ?_, ?_, hstepped⟩
    · rw [← hq]; rfl
    · rw [State.load_eq_ite]; rfl
  case stpost =>
    refine ⟨((s.advance 2).store st p s.a).writeWord slot q, ?_, ?_, fun x => ?_⟩
    · rw [← hq]; rfl
    · rw [State.store_eq]; rfl
    · rw [State.writeWord_readByte]
      exact storedWord_congr (State.store_readByte_eq_ite (s.advance 2) st p s.a) slot q x
  case ldpre =>
    have hload : ((s.advance 2).writeWord slot q).load st q = load stepped q := by
      rw [State.load_eq_ite, hstepped, wordOf_congr hstepped]
    refine ⟨((s.advance 2).writeWord slot q).setA (((s.advance 2).writeWord slot q).load st q), ?_, ?_, hstepped⟩
    · rw [← hq]; rfl
    · rw [hload]; rfl
  case stpre =>
    refine ⟨((s.advance 2).writeWord slot q).store st q s.a, ?_, ?_, fun x => ?_⟩
    · rw [← hq]; rfl
    · rw [State.store_eq]; rfl
    · rw [State.store_readByte_eq_ite, funext hstepped]; rfl

end Sys2Proof
end
